-- ==== Sys2Proof/Word.lean ====
section
/-! DEFINITION. The two word types of CORE (00_scope.md rules R6, R8, R9). Arithmetic on them wraps modulo 2^8 and 2^16, as rule
R9 asks. The helpers that split, join and extend words are in Machine/Bits.lean. -/

namespace Sys2Proof

/-- A byte: 8 bits, bit 0 the least significant (R8). -/
abbrev Byte := BitVec 8

/-- A 16-bit value: pairs, IX, IY, SP, PC and every address (R6). -/
abbrev Word := BitVec 16

end Sys2Proof
end

