-- ==== Sys2Proof/Machine/Bits.lean ====
section
/-! DEFINITION. Splitting, joining and extending words (00_scope.md R8). -/

namespace Sys2Proof

/-- `cat(h, l)`: the 16-bit value h * 256 + l (R8). -/
def cat (h l : Byte) : Word := BitVec.ofNat 16 (h.toNat * 256 + l.toNat)

/-- v[15:8] (R8). -/
def hiByte (v : Word) : Byte := BitVec.ofNat 8 (v.toNat / 256)

/-- v[7:0] (R8). -/
def loByte (v : Word) : Byte := BitVec.ofNat 8 v.toNat

/-- `sext_16(e)`: e if e < 0x80, else e + 0xFF00 (R8). -/
def sext16 (e : Byte) : Word := BitVec.ofNat 16 (if e.toNat < 0x80 then e.toNat else e.toNat + 0xFF00)

end Sys2Proof
end

