-- ==== Sys2Proof/Config.lean ====
section
/-! DEFINITION. What is fixed for one CORE: the parameters of 00_scope.md rule R6, the spaces' fixed sizes, and the free values
(opaque constants with no body: nothing can be proved of the value they give). -/

namespace Sys2Proof.Machine

/-- The byte spaces CORE reaches (20_memory.md R70). The I/O space holds no bytes: it is `Config.ioOracle`. -/
inductive Space where
  | code | ram | vram | stack
  deriving DecidableEq, Repr

/-- How ADD and SUB compute the flags (`FLAG_MODEL`, R6, D2). -/
inductive FlagModel where
  | zilog | source
  deriving DecidableEq, Repr

/-- The parameters of R6 that a model takes as arguments. They are plain data in State and no step changes them. -/
structure Params where
  /-- `STACK_SIZE`, the size of the STACK space. -/
  stackSize : Nat
  /-- `IMAGE_LEN`, the size of the CODE space. -/
  imageLen : Nat
  /-- `ENTRY_PC`, the value of PC after reset. -/
  entryPc : Word
  /-- `FLAG_MODEL`. -/
  flagModel : FlagModel
  /-- `PV_MASK`, the mask of the Parity/Overflow flag. -/
  pvMask : Byte
  deriving DecidableEq, Repr

/-- The ranges of R6: a model must refuse any value outside them, `PV_MASK` = 0x03 in particular (R7). -/
def Params.valid (p : Params) : Bool :=
  decide (2 ≤ p.stackSize) && decide (p.stackSize ≤ 0xFFFF) && decide (1 ≤ p.imageLen) &&
    decide (p.imageLen ≤ 0x80000) && decide (p.pvMask = 0x04)

/-- `RAM_SIZE` (R6). -/
def Config.ramSize : Nat := 0x2000

/-- `VRAM_SIZE` (R6). -/
def Config.vramSize : Nat := 0x4000

/-- DESIGN CHOICE (log entry 1; unsafe for a claim that rests on it): the values of the OPEN parameters at `State.reset`.
R6 fixes `FLAG_MODEL` and `PV_MASK` only. Statements about reset hold for every valid `Params` (`State.resetWith`). -/
def Config.params : Params where
  stackSize := 0x0100
  imageLen := 0x10000
  entryPc := 0x0000
  flagModel := .zilog
  pvMask := 0x04

/-- FREE VALUE (log entry 2; safe): the byte an in-range address holds when nothing has written it since reset: "a model draws
every byte freely" (R74, U9); for CODE, a byte of the OPEN parameter `IMAGE` (R6) that the model was not given. -/
opaque Config.powerOn : Space → Nat → Byte

/-- FREE VALUE (log entry 3; safe): the drawn byte of the n-th draw, for an out-of-range read or fetch (R81, U5, U8). -/
opaque Config.draw : Nat → Byte

/-- FREE VALUE (log entry 4; safe): the I/O read oracle's answer for a port at the n-th draw (R78, U6). -/
opaque Config.ioOracle : Nat → Word → Byte

end Sys2Proof.Machine
end

