-- ==== Sys2Proof/Machine/State.lean ====
section
/-! DEFINITION. The state of CORE and of the memory spaces it reaches (10_state.md R30, 20_memory.md R70), the report a step
leaves for its caller (60_exceptions.md R270 to R273), the reasons a step can stop, and the state after reset. Plain data only. -/

namespace Sys2Proof.Machine

/-- One set of the 8-bit registers: the primary set or the shadow set (R30, R44). -/
structure Bank where
  a : Byte
  f : Byte
  b : Byte
  c : Byte
  d : Byte
  e : Byte
  h : Byte
  l : Byte
  deriving DecidableEq, Repr

/-- The bytes of one space that have been written or loaded, as (address, byte) pairs with strictly rising addresses. An address
that is not listed holds a byte nothing has written: the list says nothing of it (`State.byteAt` gives it a free value). -/
abbrev Memory := List Host.Cell

/-- What an access was doing when it was out of range (R272). -/
inductive AccessKind where
  | fetch | read | write
  deriving DecidableEq, Repr

/-- The condition `OutOfRange(space, a, kind)` (R270, R272). -/
structure OutOfRange where
  space : Space
  addr : Word
  kind : AccessKind
  deriving DecidableEq, Repr

/-- The kind of a step's outcome (R273). -/
inductive StepKind where
  | executed
  | unrecognizedOpcode (bytes : List Byte) (pc0 : Word)
  deriving DecidableEq, Repr

/-- What a step reports to its caller: `(kind, conditions)`, the conditions in the order of the accesses (R11, R272, R273). -/
structure Report where
  kind : StepKind
  conditions : List OutOfRange
  deriving DecidableEq, Repr

/-- The numeric code of a condition kind: UnrecognizedOpcode 1; `none` for Executed, which has no code (R270, D23). -/
def StepKind.code : StepKind → Option Nat
  | .executed => none
  | .unrecognizedOpcode _ _ => some 1

/-- The numeric code of an OutOfRange condition (R270, D23). -/
def OutOfRange.code (_ : OutOfRange) : Nat := 2

/-- The machine. Registers: R30. Spaces: R70. `params`: R6. `report`: the last step's outcome, an output no instruction reads
(R48, R273). `draws` and `sticky` are the model's own: how many free values have been drawn (DESIGN CHOICE, log entry 3; safe), and
whether any step has reported a condition (D23; DESIGN CHOICE, log entry 5; safe for one step). -/
structure State where
  /-- A, F, B, C, D, E, H, L -/
  main : Bank
  /-- A', F', B', C', D', E', H', L' -/
  alt : Bank
  ix : Word
  iy : Word
  sp : Word
  pc : Word
  /-- the interrupt vector register I -/
  regI : Byte
  /-- the memory-refresh register R -/
  regR : Byte
  iff1 : Bool
  iff2 : Bool
  code : Memory
  ram : Memory
  vram : Memory
  stack : Memory
  params : Params
  report : Report
  sticky : Bool
  draws : Nat
  deriving DecidableEq, Repr

/-- Why the machine stops. CORE itself never does (R276); only the load before reset can fail. -/
inductive Fault where
  /-- Raised by `boot` when fewer bytes are available than `IMAGE_LEN`: "load fails (reported, fatal to startup)" and no step is
  ever run (R270 LoadFailure, R303). Safe: it is the spec's own stop. -/
  | loadFailure
  deriving DecidableEq, Repr

/-- Why the model gives no meaning. -/
inductive Refusal where
  /-- Raised by an arm of `exec` whose instruction has no meaning yet; no arm raises it now. Safe. -/
  | notModelled (mnemonic : String)
  /-- Raised by `step` and `boot` when a parameter lies outside the ranges of R6: "a model must refuse any parameter value outside
  the ranges" (R7, U1, U16). Safe: it is the spec's own refusal. -/
  | parameterOutOfRange
  deriving DecidableEq, Repr

/-- What a step or a meaning answers. -/
abbrev Result := Host.Outcome State Fault Refusal

/-- Every 8-bit register zero (R49). -/
def Bank.zero : Bank := ⟨0, 0, 0, 0, 0, 0, 0, 0⟩

/-- A step that has reported nothing. -/
def Report.clear : Report := ⟨.executed, []⟩

/-- CORE after reset with parameters p (10_state.md R49, 70_reset_and_hazards.md R300): every register zero, then PC = `ENTRY_PC`
and SP = `STACK_SIZE`. Nothing is listed in any space: their contents are free (R74; log entry 2), and the image is the loader's
(`boot`). `report`, `sticky` and `draws` start clear: DESIGN CHOICE (log entries 5 and 3; safe). -/
def State.resetWith (p : Params) : State where
  main := .zero
  alt := .zero
  ix := 0
  iy := 0
  sp := BitVec.ofNat 16 p.stackSize
  pc := p.entryPc
  regI := 0
  regR := 0
  iff1 := false
  iff2 := false
  code := []
  ram := []
  vram := []
  stack := []
  params := p
  report := .clear
  sticky := false
  draws := 0

/-- CORE after reset with the parameter values of log entry 1 (DESIGN CHOICE for the OPEN ones). -/
def State.reset : State := State.resetWith Config.params

end Sys2Proof.Machine
end

