-- ==== Sys2Proof/Machine/Ops.lean ====
section
/-! DEFINITION. The named operations of 00_scope.md R10 over memory, conditions and the stack. CORE has no trap: where the spec
speaks of conditions, "report" and "raise" are the two shared operations here, and there is no entry to a handler and no return
from one (60_exceptions.md R276, R277). Operations that answer a byte answer it beside the next state. -/

namespace Sys2Proof.Machine

/-! ### One space as a list of cells -/

/-- The canonical form: addresses strictly rising. An unlisted address reads as `none` in the list, and no cell holds `none`. -/
abbrev Memory.wf (m : Memory) : Prop := m.Pairwise fun x y => x.1 < y.1

/-- Every listed address lies below n. -/
abbrev Memory.below (n : Nat) (m : Memory) : Prop := ∀ x ∈ m, x.1 < n

/-- The byte listed for address a. An unlisted address reads as `none`: nothing has written it. -/
def Memory.get? : Memory → Nat → Option Byte
  | [], _ => none
  | (k, v) :: m, a => if k = a then some v else Memory.get? m a

/-- The list with the byte v at address a. -/
def Memory.set : Memory → Nat → Byte → Memory
  | [], a, v => [(a, v)]
  | (k, u) :: m, a, v =>
    if a < k then (a, v) :: (k, u) :: m
    else if a = k then (a, v) :: m
    else (k, u) :: Memory.set m a v

/-- The bytes bs at addresses from a on. -/
def Memory.ofBytes : Nat → List Byte → Memory
  | _, [] => []
  | a, b :: bs => (a, b) :: Memory.ofBytes (a + 1) bs

/-! ### The spaces -/

/-- The cells of a space. -/
def State.space (s : State) : Space → Memory
  | .code => s.code
  | .ram => s.ram
  | .vram => s.vram
  | .stack => s.stack

/-- The size of a space in bytes (20_memory.md R70). -/
def spaceSize (p : Params) : Space → Nat
  | .code => p.imageLen
  | .ram => Config.ramSize
  | .vram => Config.vramSize
  | .stack => p.stackSize

/-- `isCodeAddressValid`, `isRamAddressValid`, `isVramAddressValid`, `isStackAddressValid` (20_memory.md R71). DESIGN CHOICE (log
entry 12; unsafe for a claim about `STACK_SIZE` = 0xFFFF): the check is R71's in every case, so with `STACK_SIZE` = 0xFFFF the
address 0xFFFE is in the stack, although R184's corner case for SP = 0 calls it out of range. -/
def addressValid (p : Params) (sp : Space) (a : Word) : Bool := decide (a.toNat < spaceSize p sp)

/-- The byte a space holds at an address: the one written last, else a free byte (R74, R89; log entry 2). -/
def State.byteAt (s : State) (sp : Space) (a : Nat) : Byte := ((s.space sp).get? a).getD (Config.powerOn sp a)

/-- The state with one byte of a space set. -/
def State.setByte (s : State) (sp : Space) (a : Nat) (v : Byte) : State :=
  match sp with
  | .code => { s with code := s.code.set a v }
  | .ram => { s with ram := s.ram.set a v }
  | .vram => { s with vram := s.vram.set a v }
  | .stack => { s with stack := s.stack.set a v }

/-! ### Conditions -/

/-- The kind an out-of-range read of a space is reported with (20_memory.md R76). -/
def readKind : Space → AccessKind
  | .code => .fetch
  | .ram | .vram | .stack => .read

/-- `report OutOfRange(space, a, kind)`: the triple is appended to the step's list and the step goes on (60_exceptions.md R272). -/
def reportOutOfRange (sp : Space) (a : Word) (k : AccessKind) (s : State) : State :=
  { s with report := { s.report with conditions := s.report.conditions ++ [⟨sp, a, k⟩] }, sticky := true }

/-- `raise UnrecognizedOpcode(bytes, pc0)`: the step ends with this outcome. PC has already moved past the consumed bytes, so pc0
is PC less their number; nothing else changes (60_exceptions.md R271). -/
def raiseUnrecognized (bytes : List Byte) (s : State) : State :=
  { s with
    report := { s.report with kind := .unrecognizedOpcode bytes (s.pc - BitVec.ofNat 16 bytes.length) }
    sticky := true }

/-- The state at the start of a step: nothing reported yet (R273). -/
def beginStep (s : State) : State := { s with report := .clear }

/-! ### Access primitives -/

/-- A drawn byte, fresh at each draw (20_memory.md R81; log entry 3). -/
def drawByte (s : State) : Byte × State := (Config.draw s.draws, { s with draws := s.draws + 1 })

/-- `MemRead(space, a, 1)` (20_memory.md R76). -/
def memRead (sp : Space) (a : Word) (s : State) : Byte × State :=
  if addressValid s.params sp a then (s.byteAt sp a.toNat, s)
  else drawByte (reportOutOfRange sp a (readKind sp) s)

/-- The spaces `MemWrite` takes: CODE is never one of them (20_memory.md R77). -/
inductive DataSpace where
  | ram | vram | stack
  deriving DecidableEq, Repr

/-- A writable space as a space. -/
def DataSpace.toSpace : DataSpace → Space
  | .ram => .ram
  | .vram => .vram
  | .stack => .stack

/-- `MemWrite(space, a, 1, v)` (20_memory.md R77): out of range it is reported and changes no byte (R81). -/
def memWrite (sp : DataSpace) (a : Word) (v : Byte) (s : State) : State :=
  if addressValid s.params sp.toSpace a then s.setByte sp.toSpace a.toNat v
  else reportOutOfRange sp.toSpace a .write s

/-- `Fetch()`: the code byte at PC; PC advances even when the fetch is out of range (20_memory.md R75). -/
def fetch (s : State) : Byte × State :=
  let (b, s1) := memRead .code s.pc s
  (b, { s1 with pc := s.pc + 1 })

/-- `DataRead(a)`: data accesses go to RAM (20_memory.md R79). -/
def dataRead (a : Word) (s : State) : Byte × State := memRead .ram a s

/-- `DataWrite(a, v)` (20_memory.md R79). -/
def dataWrite (a : Word) (v : Byte) (s : State) : State := memWrite .ram a v s

/-- `StackRead(a)` (20_memory.md R80). -/
def stackRead (a : Word) (s : State) : Byte × State := memRead .stack a s

/-- `StackWrite(a, v)` (20_memory.md R80). -/
def stackWrite (a : Word) (v : Byte) (s : State) : State := memWrite .stack a v s

/-- `IORead(port)`: one byte from the I/O read oracle, with no range check (20_memory.md R78; log entry 4). -/
def ioRead (port : Word) (s : State) : Byte × State := (Config.ioOracle s.draws port, { s with draws := s.draws + 1 })

/-! ### The stack -/

/-- SP less one, modulo 2^16. -/
def decSp (s : State) : State := { s with sp := s.sp - 1 }

/-- SP plus one, modulo 2^16. -/
def incSp (s : State) : State := { s with sp := s.sp + 1 }

/-- `push16(v)`: SP is decremented before each byte is written, the high byte first (41_load16_stack.md R180). With SP = 0 and
`STACK_SIZE` = 0xFFFF the low byte is stored at 0xFFFE: DESIGN CHOICE (log entry 12; unsafe for a claim about that size). -/
def push16 (v : Word) (s : State) : State :=
  let s1 := decSp s
  let s2 := decSp (stackWrite s1.sp (hiByte v) s1)
  stackWrite s2.sp (loByte v) s2

/-- `pop16()`: each byte is read, then SP is incremented modulo 2^16, the low byte first (41_load16_stack.md R181). With
SP = `STACK_SIZE` = 0xFFFF the high byte is read from address 0, in range and unreported, although R185's corner case calls both
bytes of an empty stack out of range: DESIGN CHOICE (log entry 12; unsafe for a claim about that size). -/
def pop16 (s : State) : Word × State :=
  let (lo, s1) := stackRead s.sp s
  let s2 := incSp s1
  let (hi, s3) := stackRead s2.sp s2
  (cat hi lo, incSp s3)

end Sys2Proof.Machine
end

