-- ==== Sys2Proof/Syntax.lean ====
section
/-! DEFINITION. The instruction set as data: one constructor per row of spec/opcode_table.json (30_encoding.md R112, R119, R120),
in the table's order, and one for each class of its reserved rows (R121; R122 and R123). -/

namespace Sys2Proof

/-- The 8-bit registers a 3-bit encoding names (10_state.md R32). Encoding 6 names none (R33). -/
inductive Reg8 where
  | b | c | d | e | h | l | a
  deriving DecidableEq, Repr

/-- The pairs the field dd names (R35). -/
inductive PairDD where
  | bc | de | hl | sp
  deriving DecidableEq, Repr

/-- The pairs the field qq names (R36). -/
inductive PairQQ where
  | bc | de | hl | af
  deriving DecidableEq, Repr

/-- The condition codes 0 to 7 in order (44_control.md R240). -/
inductive Cond where
  | nz | z | nc | c | po | pe | p | m
  deriving DecidableEq, Repr

/-- The bytes that select a second opcode table (R116). -/
inductive Pfx where
  | cb | dd | ed | fd
  deriving DecidableEq, Repr

/-- The two index registers (R39): IX after 0xDD, IY after 0xFD (R120). -/
inductive Index where
  | ix | iy
  deriving DecidableEq, Repr

/-- One constructor per instruction form. Operands: `t` target register, `r` source register, `n` 8-bit immediate, `nn` 16-bit
immediate, `d` index displacement byte, `e` relative-jump displacement byte (R113 to R115). -/
inductive Instr where
  | ldRR (t r : Reg8)                 -- LD r,r'
  | ldRN (t : Reg8) (n : Byte)        -- LD r,n
  | ldRHl (t : Reg8)                  -- LD r,(HL)
  | ldHlR (r : Reg8)                  -- LD (HL),r
  | ldDdNn (p : PairDD) (nn : Word)   -- LD dd,nn
  | pushQq (p : PairQQ)               -- PUSH qq
  | popQq (p : PairQQ)                -- POP qq
  | ldABc                             -- LD A,(BC)
  | ldADe                             -- LD A,(DE)
  | ldANn (nn : Word)                 -- LD A,(nn)
  | ldBcA                             -- LD (BC),A
  | ldDeA                             -- LD (DE),A
  | ldNnA (nn : Word)                 -- LD (nn),A
  | exDeHl                            -- EX DE,HL
  | exAfAf                            -- EX AF,AF'
  | exx                               -- EXX
  | exSpHl                            -- EX (SP),HL
  | addAN (n : Byte)                  -- ADD A,n
  | addAHl                            -- ADD A,(HL)
  | subN (n : Byte)                   -- SUB n
  | subHl                             -- SUB (HL)
  | jpNn (nn : Word)                  -- JP nn
  | jrE (e : Byte)                    -- JR e
  | jrNzE (e : Byte)                  -- JR NZ,e
  | jrZE (e : Byte)                   -- JR Z,e
  | jrNcE (e : Byte)                  -- JR NC,e
  | jrCE (e : Byte)                   -- JR C,e
  | callNn (nn : Word)                -- CALL nn
  | ret                               -- RET
  | di                                -- DI
  | ei                                -- EI
  | inAN (n : Byte)                   -- IN A,(n)
  | addAR (r : Reg8)                  -- ADD A,r
  | subR (r : Reg8)                   -- SUB r
  | jpCcNn (cc : Cond) (nn : Word)    -- JP cc,nn
  | retCc (cc : Cond)                 -- RET cc
  | ldIxNn (nn : Word)                -- LD IX,nn
  | ldRIxD (t : Reg8) (d : Byte)      -- LD r,(IX+d)
  | ldIxDR (d : Byte) (r : Reg8)      -- LD (IX+d),r
  | pushIx                            -- PUSH IX
  | popIx                             -- POP IX
  | ldIyNn (nn : Word)                -- LD IY,nn
  | ldRIyD (t : Reg8) (d : Byte)      -- LD r,(IY+d)
  | ldIyDR (d : Byte) (r : Reg8)      -- LD (IY+d),r
  | pushIy                            -- PUSH IY
  | popIy                             -- POP IY
  | unrecognized (op : Byte)                         -- an unprefixed byte outside the subset (R121)
  | unrecognizedPrefixed (p : Pfx) (op2 : Byte)      -- CB/ED and any byte (R122); DD/FD and a byte R120 does not admit (R123)
  deriving DecidableEq, Repr

end Sys2Proof
end

