-- ==== Sys2Proof/Machine/Operands.lean ====
section
/-! DEFINITION. Every operand form: 8-bit registers, pairs, index registers, effective addresses, relative targets
(10_state.md R32 to R39; 40_load8.md R150; 44_control.md R243). -/

namespace Sys2Proof.Machine

/-- `reg8[r]` of one bank (10_state.md R32). -/
def Bank.get (k : Bank) : Reg8 → Byte
  | .b => k.b
  | .c => k.c
  | .d => k.d
  | .e => k.e
  | .h => k.h
  | .l => k.l
  | .a => k.a

/-- `reg8[r] <- v` of one bank (10_state.md R32). -/
def Bank.set (k : Bank) (r : Reg8) (v : Byte) : Bank :=
  match r with
  | .b => { k with b := v }
  | .c => { k with c := v }
  | .d => { k with d := v }
  | .e => { k with e := v }
  | .h => { k with h := v }
  | .l => { k with l := v }
  | .a => { k with a := v }

/-- `reg8[r]`. -/
def State.reg8 (s : State) (r : Reg8) : Byte := s.main.get r

/-- The state with the primary set replaced. -/
def State.setMain (s : State) (k : Bank) : State := { s with main := k }

/-- `reg8[r] <- v`. -/
def State.setReg8 (s : State) (r : Reg8) (v : Byte) : State := s.setMain (s.main.set r v)

/-- BC (10_state.md R36). -/
def State.bc (s : State) : Word := cat s.main.b s.main.c

/-- DE (10_state.md R36). -/
def State.de (s : State) : Word := cat s.main.d s.main.e

/-- HL (10_state.md R36). -/
def State.hl (s : State) : Word := cat s.main.h s.main.l

/-- AF (10_state.md R36). -/
def State.af (s : State) : Word := cat s.main.a s.main.f

/-- BC <- v (10_state.md R36). -/
def State.setBc (s : State) (v : Word) : State := s.setMain { s.main with b := hiByte v, c := loByte v }

/-- DE <- v (10_state.md R36). -/
def State.setDe (s : State) (v : Word) : State := s.setMain { s.main with d := hiByte v, e := loByte v }

/-- HL <- v (10_state.md R36). -/
def State.setHl (s : State) (v : Word) : State := s.setMain { s.main with h := hiByte v, l := loByte v }

/-- AF <- v, all 8 bits of F (10_state.md R36, R41). -/
def State.setAf (s : State) (v : Word) : State := s.setMain { s.main with a := hiByte v, f := loByte v }

/-- SP <- v. -/
def State.setSp (s : State) (v : Word) : State := { s with sp := v }

/-- PC <- v. -/
def State.setPc (s : State) (v : Word) : State := { s with pc := v }

/-- `pairDD[p]` (10_state.md R35). -/
def State.pairDD (s : State) : PairDD → Word
  | .bc => s.bc
  | .de => s.de
  | .hl => s.hl
  | .sp => s.sp

/-- `pairDD[p] <- v` (10_state.md R35). -/
def State.setPairDD (s : State) (p : PairDD) (v : Word) : State :=
  match p with
  | .bc => s.setBc v
  | .de => s.setDe v
  | .hl => s.setHl v
  | .sp => s.setSp v

/-- `pairQQ[p]` (10_state.md R36). -/
def State.pairQQ (s : State) : PairQQ → Word
  | .bc => s.bc
  | .de => s.de
  | .hl => s.hl
  | .af => s.af

/-- `pairQQ[p] <- v` (10_state.md R36). -/
def State.setPairQQ (s : State) (p : PairQQ) (v : Word) : State :=
  match p with
  | .bc => s.setBc v
  | .de => s.setDe v
  | .hl => s.setHl v
  | .af => s.setAf v

/-- The index register X (10_state.md R39). -/
def State.index (s : State) : Index → Word
  | .ix => s.ix
  | .iy => s.iy

/-- X <- v (10_state.md R39). -/
def State.setIndex (s : State) (x : Index) (v : Word) : State :=
  match x with
  | .ix => { s with ix := v }
  | .iy => { s with iy := v }

/-- The effective address of (X+d): (X + sext_16(d)) mod 2^16 (40_load8.md R150). -/
def State.indexed (s : State) (x : Index) (d : Byte) : Word := s.index x + sext16 d

/-- The target of a relative jump, with PC read after the displacement was fetched (44_control.md R243). -/
def State.relative (s : State) (e : Byte) : Word := s.pc + sext16 e

end Sys2Proof.Machine
end

