-- ==== Sys2Proof/Machine/Flags.lean ====
section
/-! DEFINITION. The flag register, the condition evaluator and the ALU with its flag logic (10_state.md R40 to R43;
43_arith.md R210 to R213; 44_control.md R240). -/

namespace Sys2Proof.Machine

/-- The flags F holds (10_state.md R40). Bits 5 and 3 name none. -/
inductive Flag where
  | s | z | h | pv | n | c
  deriving DecidableEq, Repr

/-- mask(X), with the parameter `PV_MASK` (10_state.md R40). -/
def flagMask (p : Params) : Flag → Byte
  | .s => 0x80
  | .z => 0x40
  | .h => 0x10
  | .pv => p.pvMask
  | .n => 0x02
  | .c => 0x01

/-- `isFlagSet(mask, flag)`: every bit of flag is set in mask (10_state.md R42). -/
def isFlagSet (mask flag : Byte) : Bool := mask &&& flag == flag

/-- `flag(X)` (10_state.md R40). -/
def State.flag (s : State) (x : Flag) : Bool := isFlagSet s.main.f (flagMask s.params x)

/-- F <- v. -/
def State.setF (s : State) (v : Byte) : State := s.setMain { s.main with f := v }

/-- `b ? m : 0`. -/
def maskIf (b : Bool) (m : Byte) : Byte := if b then m else 0

/-- `setFlag(X, b)`: no other bit of F changes (10_state.md R41). -/
def State.setFlag (s : State) (x : Flag) (b : Bool) : State :=
  s.setF ((s.main.f &&& ~~~flagMask s.params x) ||| maskIf b (flagMask s.params x))

/-- `cond(c)`, the condition evaluator (44_control.md R240). -/
def State.cond (s : State) : Cond → Bool
  | .nz => !s.flag .z
  | .z => s.flag .z
  | .nc => !s.flag .c
  | .c => s.flag .c
  | .po => !s.flag .pv
  | .pe => s.flag .pv
  | .p => !s.flag .s
  | .m => s.flag .s

/-- The two ALU operations (43_arith.md R210). -/
inductive AluOp where
  | add | sub
  deriving DecidableEq, Repr

/-- The bits S·0x80 | Z·0x40 | H·0x10 | V·PV_MASK | N·0x02 | C·0x01 (43_arith.md R212, R213). -/
def flagBits (p : Params) (fs fz fh fv fn fc : Bool) : Byte :=
  maskIf fs (flagMask p .s) ||| maskIf fz (flagMask p .z) ||| maskIf fh (flagMask p .h) ||| maskIf fv (flagMask p .pv) |||
    maskIf fn (flagMask p .n) ||| maskIf fc (flagMask p .c)

/-- `alu(add, a, v)` with `FLAG_MODEL` = zilog (43_arith.md R212). -/
def aluAddZilog (p : Params) (a v : Byte) : Byte × Byte :=
  let sum := a.toNat + v.toNat
  let r : Byte := BitVec.ofNat 8 sum
  (r, flagBits p (r.getLsbD 7) (r == 0) (decide (a.toNat % 16 + v.toNat % 16 > 0x0F))
    (((a ^^^ r) &&& (v ^^^ r) &&& 0x80) != 0) false (decide (sum > 0xFF)))

/-- `alu(sub, a, v)` with `FLAG_MODEL` = zilog (43_arith.md R213). -/
def aluSubZilog (p : Params) (a v : Byte) : Byte × Byte :=
  let r : Byte := BitVec.ofInt 8 (Int.ofNat a.toNat - Int.ofNat v.toNat)
  (r, flagBits p (r.getLsbD 7) (r == 0) (decide (a.toNat % 16 < v.toNat % 16))
    (((a ^^^ v) &&& (a ^^^ r) &&& 0x80) != 0) true (decide (a.toNat < v.toNat)))

/-- The 8-bit result of `alu(op, a, v)` modulo 2^8 (43_arith.md R211). -/
def aluResult : AluOp → Byte → Byte → Byte
  | .add, a, v => a + v
  | .sub, a, v => a - v

/-- `alu(op, a, v)` with `FLAG_MODEL` = source: H from bit 4 of the result, P/V a copy of IFF2, N cleared, C not written
(43_arith.md R211). -/
def aluSource (p : Params) (iff2 : Bool) (op : AluOp) (a v : Byte) : Byte × Byte :=
  let r := aluResult op a v
  (r, flagBits p (r.getLsbD 7) (r == 0) (r.getLsbD 4) iff2 false false)

/-- `alu(op, a, v)` as `FLAG_MODEL` selects it (43_arith.md R210). -/
def alu (p : Params) (iff2 : Bool) (op : AluOp) (a v : Byte) : Byte × Byte :=
  match p.flagModel, op with
  | .zilog, .add => aluAddZilog p a v
  | .zilog, .sub => aluSubZilog p a v
  | .source, op => aluSource p iff2 op a v

/-- `keep`: the bits of F an ADD or SUB leaves (43_arith.md R210). -/
def keepMask : FlagModel → Byte
  | .zilog => 0x28
  | .source => 0x29

/-- The write-back of every ADD and SUB: A <- r; F <- (F & keep) | fl (43_arith.md R210). -/
def aluA (op : AluOp) (v : Byte) (s : State) : State :=
  let (r, fl) := alu s.params s.iff2 op s.main.a v
  s.setMain { s.main with a := r, f := (s.main.f &&& keepMask s.params.flagModel) ||| fl }

end Sys2Proof.Machine
end

