-- ==== Sys2Proof/Machine/Arith.lean ====
section
/-! DEFINITION. ADD and SUB (43_arith.md): one write-back `aluA` (R210) over each operand form. The operand is read before A is
written. -/

namespace Sys2Proof.Machine

/-- The (HL) form: v <- DataRead(HL), then the write-back. -/
def aluHl (op : AluOp) (s : State) : State :=
  let (v, s1) := dataRead s.hl s
  aluA op v s1

/-- ADD A,r (R214). -/
def execAddAR (r : Reg8) (s : State) : Result := .next (aluA .add (s.reg8 r) s)

/-- ADD A,n (R215). -/
def execAddAN (n : Byte) (s : State) : Result := .next (aluA .add n s)

/-- ADD A,(HL) (R216). -/
def execAddAHl (s : State) : Result := .next (aluHl .add s)

/-- SUB r (R217). -/
def execSubR (r : Reg8) (s : State) : Result := .next (aluA .sub (s.reg8 r) s)

/-- SUB n (R218). -/
def execSubN (n : Byte) (s : State) : Result := .next (aluA .sub n s)

/-- SUB (HL) (R219). -/
def execSubHl (s : State) : Result := .next (aluHl .sub s)

end Sys2Proof.Machine
end

