-- ==== Sys2Proof/Machine/Control.lean ====
section
/-! DEFINITION. Control transfer (44_control.md). PC already points past the instruction, so a transfer not taken leaves it there.
No delay slot, no link register (R249). -/

namespace Sys2Proof.Machine

/-- PC <- target when the condition holds. -/
def jumpIf (taken : Bool) (target : Word) (s : State) : State := if taken then s.setPc target else s

/-- PC <- pop16() (R247). -/
def popPc (s : State) : State :=
  let (v, s1) := pop16 s
  s1.setPc v

/-- JP nn (R241). -/
def execJpNn (nn : Word) (s : State) : Result := .next (s.setPc nn)

/-- JP cc,nn (R242). -/
def execJpCcNn (cc : Cond) (nn : Word) (s : State) : Result := .next (jumpIf (s.cond cc) nn s)

/-- JR e (R244). -/
def execJrE (e : Byte) (s : State) : Result := .next (s.setPc (s.relative e))

/-- JR NZ,e (R245). -/
def execJrNzE (e : Byte) (s : State) : Result := .next (jumpIf (s.cond .nz) (s.relative e) s)

/-- JR Z,e (R245). -/
def execJrZE (e : Byte) (s : State) : Result := .next (jumpIf (s.cond .z) (s.relative e) s)

/-- JR NC,e (R245). -/
def execJrNcE (e : Byte) (s : State) : Result := .next (jumpIf (s.cond .nc) (s.relative e) s)

/-- JR C,e (R245). -/
def execJrCE (e : Byte) (s : State) : Result := .next (jumpIf (s.cond .c) (s.relative e) s)

/-- CALL nn (R246): the return address is PC, past the operands. The jump happens whatever the stack writes report. -/
def execCallNn (nn : Word) (s : State) : Result := .next ((push16 s.pc s).setPc nn)

/-- RET (R247). -/
def execRet (s : State) : Result := .next (popPc s)

/-- RET cc (R248): no stack access when the condition is false. -/
def execRetCc (cc : Cond) (s : State) : Result := .next (if s.cond cc then popPc s else s)

end Sys2Proof.Machine
end

