-- ==== Sys2Proof/Machine/Exchange.lean ====
section
/-! DEFINITION. The exchanges (42_exchange.md). -/

namespace Sys2Proof.Machine

/-- EX DE,HL (R200). -/
def execExDeHl (s : State) : Result := .next ((s.setDe s.hl).setHl s.de)

/-- EX AF,AF' (R201): all 8 bits of F and F'. -/
def execExAfAf (s : State) : Result :=
  .next { s with
    main := { s.main with a := s.alt.a, f := s.alt.f }
    alt := { s.alt with a := s.main.a, f := s.main.f } }

/-- EXX (R202): the contents are exchanged; there is no bank-select bit (10_state.md R44). -/
def execExx (s : State) : Result :=
  .next { s with
    main := { s.alt with a := s.main.a, f := s.main.f }
    alt := { s.main with a := s.alt.a, f := s.alt.f } }

/-- HL exchanged with the 16-bit value at the top of the stack (R203): reads SP then SP+1, writes SP+1 then SP, then HL. -/
def exchangeStackHl (s : State) : State :=
  let a0 := s.sp
  let a1 := s.sp + 1
  let (lo, s1) := stackRead a0 s
  let (hi, s2) := stackRead a1 s1
  let s3 := stackWrite a1 s.main.h s2
  let s4 := stackWrite a0 s.main.l s3
  s4.setHl (cat hi lo)

/-- EX (SP),HL (R203); SP is unchanged. -/
def execExSpHl (s : State) : Result := .next (exchangeStackHl s)

end Sys2Proof.Machine
end

