-- ==== Sys2Proof/Machine/Load16.lean ====
section
/-! DEFINITION. The 16-bit loads, PUSH and POP (41_load16_stack.md). Only POP AF writes F. -/

namespace Sys2Proof.Machine

/-- LD dd,nn (R183). -/
def execLdDdNn (p : PairDD) (nn : Word) (s : State) : Result := .next (s.setPairDD p nn)

/-- PUSH qq (R184). -/
def execPushQq (p : PairQQ) (s : State) : Result := .next (push16 (s.pairQQ p) s)

/-- pairQQ[p] <- pop16(). -/
def popToPair (p : PairQQ) (s : State) : State :=
  let (v, s1) := pop16 s
  s1.setPairQQ p v

/-- POP qq (R185); POP AF writes all 8 bits of F (10_state.md R41). -/
def execPopQq (p : PairQQ) (s : State) : Result := .next (popToPair p s)

/-- X <- pop16(). -/
def popToIndex (x : Index) (s : State) : State :=
  let (v, s1) := pop16 s
  s1.setIndex x v

/-- LD IX,nn (R186). -/
def execLdIxNn (nn : Word) (s : State) : Result := .next (s.setIndex .ix nn)

/-- LD IY,nn (R186). -/
def execLdIyNn (nn : Word) (s : State) : Result := .next (s.setIndex .iy nn)

/-- PUSH IX, all 16 bits (R187, 90_conflicts.md C5). -/
def execPushIx (s : State) : Result := .next (push16 s.ix s)

/-- PUSH IY, all 16 bits (R187, 90_conflicts.md C5). -/
def execPushIy (s : State) : Result := .next (push16 s.iy s)

/-- POP IX (R188). -/
def execPopIx (s : State) : Result := .next (popToIndex .ix s)

/-- POP IY (R188). -/
def execPopIy (s : State) : Result := .next (popToIndex .iy s)

end Sys2Proof.Machine
end

