-- ==== Sys2Proof/Machine/Load8.lean ====
section
/-! DEFINITION. The 8-bit loads (40_load8.md). A meaning starts after the whole instruction has been fetched, so PC already points
past it; none writes F. Addresses are formed before any register is written (R150). -/

namespace Sys2Proof.Machine

/-- reg8[t] <- DataRead(a). -/
def loadReg8 (t : Reg8) (a : Word) (s : State) : State :=
  let (v, s1) := dataRead a s
  s1.setReg8 t v

/-- LD r,r' (R151). -/
def execLdRR (t r : Reg8) (s : State) : Result := .next (s.setReg8 t (s.reg8 r))

/-- LD r,n (R152). -/
def execLdRN (t : Reg8) (n : Byte) (s : State) : Result := .next (s.setReg8 t n)

/-- LD r,(HL) (R153). -/
def execLdRHl (t : Reg8) (s : State) : Result := .next (loadReg8 t s.hl s)

/-- LD (HL),r (R154). -/
def execLdHlR (r : Reg8) (s : State) : Result := .next (dataWrite s.hl (s.reg8 r) s)

/-- LD r,(IX+d) (R155). -/
def execLdRIxD (t : Reg8) (d : Byte) (s : State) : Result := .next (loadReg8 t (s.indexed .ix d) s)

/-- LD r,(IY+d) (R155). -/
def execLdRIyD (t : Reg8) (d : Byte) (s : State) : Result := .next (loadReg8 t (s.indexed .iy d) s)

/-- LD (IX+d),r (R156). -/
def execLdIxDR (d : Byte) (r : Reg8) (s : State) : Result := .next (dataWrite (s.indexed .ix d) (s.reg8 r) s)

/-- LD (IY+d),r (R156). -/
def execLdIyDR (d : Byte) (r : Reg8) (s : State) : Result := .next (dataWrite (s.indexed .iy d) (s.reg8 r) s)

/-- LD A,(BC) (R157). -/
def execLdABc (s : State) : Result := .next (loadReg8 .a s.bc s)

/-- LD A,(DE) (R158). -/
def execLdADe (s : State) : Result := .next (loadReg8 .a s.de s)

/-- LD A,(nn) (R159). -/
def execLdANn (nn : Word) (s : State) : Result := .next (loadReg8 .a nn s)

/-- LD (BC),A (R160). -/
def execLdBcA (s : State) : Result := .next (dataWrite s.bc s.main.a s)

/-- LD (DE),A (R161). -/
def execLdDeA (s : State) : Result := .next (dataWrite s.de s.main.a s)

/-- LD (nn),A (R162). -/
def execLdNnA (nn : Word) (s : State) : Result := .next (dataWrite nn s.main.a s)

end Sys2Proof.Machine
end

