-- ==== Sys2Proof/WellFormed.lean ====
section
/-! DEFINITION. Which terms of `Instr` stand for a byte sequence. Every operand type holds exactly the values its field can take,
so only the two unrecognized classes need a check: they must name bytes the spec lists as outside the admitted subset
(30_encoding.md R121 to R123). The lists are the spec's own, written apart from the decoder. -/

namespace Sys2Proof

/-- The 115 unprefixed bytes of R121, in its order; a span `x to y` is written as a `List.range'`. -/
def unrecognizedBytes : List Nat :=
  [0x00, 0x03, 0x04, 0x05, 0x07, 0x09, 0x0B, 0x0C, 0x0D, 0x0F, 0x10, 0x13, 0x14, 0x15, 0x17, 0x19, 0x1B, 0x1C, 0x1D, 0x1F] ++
  [0x22, 0x23, 0x24, 0x25, 0x27, 0x29, 0x2A, 0x2B, 0x2C, 0x2D, 0x2F, 0x33, 0x34, 0x35, 0x36, 0x37, 0x39, 0x3B, 0x3C, 0x3D] ++
  [0x3F, 0x76] ++ List.range' 0x88 8 ++ List.range' 0x98 8 ++ List.range' 0xA0 32 ++
  [0xC4, 0xC7, 0xCC, 0xCE, 0xCF, 0xD3, 0xD4, 0xD7, 0xDC, 0xDE, 0xDF, 0xE4, 0xE6, 0xE7, 0xE9, 0xEC, 0xEE, 0xEF] ++
  [0xF4, 0xF6, 0xF7, 0xF9, 0xFC, 0xFE, 0xFF]

/-- The 17 second bytes admitted after 0xDD and after 0xFD (R120): LD X,nn; LD r,(X+d); LD (X+d),r; PUSH X; POP X. -/
def indexedSecondBytes : List Nat :=
  [0x21, 0x46, 0x4E, 0x56, 0x5E, 0x66, 0x6E, 0x7E, 0x70, 0x71, 0x72, 0x73, 0x74, 0x75, 0x77, 0xE5, 0xE1]

/-- A term that some byte sequence encodes. -/
def Instr.wf : Instr → Bool
  | .unrecognized op => unrecognizedBytes.contains op.toNat
  | .unrecognizedPrefixed .cb _ | .unrecognizedPrefixed .ed _ => true
  | .unrecognizedPrefixed .dd op2 | .unrecognizedPrefixed .fd op2 => !indexedSecondBytes.contains op2.toNat
  | .ldRR _ _ | .ldRN _ _ | .ldRHl _ | .ldHlR _ | .ldDdNn _ _ | .pushQq _ | .popQq _ | .ldABc | .ldADe | .ldANn _ | .ldBcA
  | .ldDeA | .ldNnA _ | .exDeHl | .exAfAf | .exx | .exSpHl | .addAN _ | .addAHl | .subN _ | .subHl | .jpNn _ | .jrE _
  | .jrNzE _ | .jrZE _ | .jrNcE _ | .jrCE _ | .callNn _ | .ret | .di | .ei | .inAN _ | .addAR _ | .subR _ | .jpCcNn _ _
  | .retCc _ | .ldIxNn _ | .ldRIxD _ _ | .ldIxDR _ _ | .pushIx | .popIx | .ldIyNn _ | .ldRIyD _ _ | .ldIyDR _ _
  | .pushIy | .popIy => true

end Sys2Proof
end

