-- ==== Sys2Proof/Decode.lean ====
section
/-! DEFINITION. Decoding (30_encoding.md R110 to R126) and, after it, the encoder. The selecting byte or bytes give a `Selected`:
the instruction, or what it still needs from the code stream. Fetching (Machine/Fetch.lean) and decoding a list of bytes
(`decode`) complete the same `Selected`, so the two cannot disagree. -/

namespace Sys2Proof

/-- What the selecting bytes say (R124): the whole instruction, or an instruction that waits for one operand byte (formats `op n`,
`op e`, `pfx op d`), or for a 16-bit operand (formats `op nn`, `pfx op nn`). -/
inductive Selected where
  | op (i : Instr)
  | opByte (k : Byte → Instr)
  | opWord (k : Word → Instr)

/-- Why a list of bytes gives no instruction: it ends inside one. No byte sequence that is long enough is refused (R126). -/
inductive DecodeError where
  | truncated
  deriving DecidableEq, Repr

/-- `isRegisterEncodingValid(code)` (10_state.md R33). -/
def isRegisterEncodingValid (code : Nat) : Bool := code ≤ 7 && code != 6

/-- `decodeReg8(code)` (10_state.md R32, R34); `none` is the sentinel `InvalidRegisterEncoding`. -/
def decodeReg8 (code : Nat) : Option Reg8 :=
  if isRegisterEncodingValid code then
    match code with
    | 0 => some .b
    | 1 => some .c
    | 2 => some .d
    | 3 => some .e
    | 4 => some .h
    | 5 => some .l
    | _ => some .a
  else none

/-- Field `t`, bits 5:3 (R113). -/
def fieldT (op : Byte) : Nat := (op.extractLsb' 3 3).toNat

/-- Field `s`, bits 2:0 (R113). -/
def fieldS (op : Byte) : Nat := (op.extractLsb' 0 3).toNat

/-- Field `p`, bits 5:4 (R114), as dd (10_state.md R35). -/
def fieldDD (op : Byte) : PairDD :=
  match (op.extractLsb' 4 2).toNat with
  | 0 => .bc
  | 1 => .de
  | 2 => .hl
  | _ => .sp

/-- Field `p`, bits 5:4 (R114), as qq (10_state.md R36). -/
def fieldQQ (op : Byte) : PairQQ :=
  match (op.extractLsb' 4 2).toNat with
  | 0 => .bc
  | 1 => .de
  | 2 => .hl
  | _ => .af

/-- Field `c`, bits 5:3 (R114), decoded by 44_control.md R240. -/
def fieldC (op : Byte) : Cond :=
  match (op.extractLsb' 3 3).toNat with
  | 0 => .nz
  | 1 => .z
  | 2 => .nc
  | 3 => .c
  | 4 => .po
  | 5 => .pe
  | 6 => .p
  | _ => .m

/-- The exact-byte table of R119. -/
def exactBytes : List (Byte × Selected) :=
  [(0x02, .op .ldBcA), (0x08, .op .exAfAf), (0x0A, .op .ldABc), (0x12, .op .ldDeA), (0x18, .opByte .jrE),
   (0x1A, .op .ldADe), (0x20, .opByte .jrNzE), (0x28, .opByte .jrZE), (0x30, .opByte .jrNcE), (0x32, .opWord .ldNnA),
   (0x38, .opByte .jrCE), (0x3A, .opWord .ldANn), (0x86, .op .addAHl), (0x96, .op .subHl), (0xC3, .opWord .jpNn),
   (0xC6, .opByte .addAN), (0xC9, .op .ret), (0xCD, .opWord .callNn), (0xD6, .opByte .subN), (0xD9, .op .exx),
   (0xDB, .opByte .inAN), (0xE3, .op .exSpHl), (0xEB, .op .exDeHl), (0xF3, .op .di), (0xFB, .op .ei)]

/-- The lines of R116's chain after the prefixes, in order. A register field that fails its check makes the line fail (R117). -/
def templates : List (Byte → Option Selected) :=
  [fun op => if op &&& 0xC0 = 0x40 then do
      let t ← decodeReg8 (fieldT op)
      let r ← decodeReg8 (fieldS op)
      some (.op (.ldRR t r)) else none,
   fun op => if op &&& 0xC7 = 0x06 then (decodeReg8 (fieldT op)).map fun t => .opByte (.ldRN t) else none,
   fun op => if op &&& 0xC7 = 0x46 then (decodeReg8 (fieldT op)).map fun t => .op (.ldRHl t) else none,
   fun op => if op &&& 0xF8 = 0x70 then (decodeReg8 (fieldS op)).map fun r => .op (.ldHlR r) else none,
   fun op => if op &&& 0xCF = 0x01 then some (.opWord (.ldDdNn (fieldDD op))) else none,
   fun op => if op &&& 0xCF = 0xC5 then some (.op (.pushQq (fieldQQ op))) else none,
   fun op => if op &&& 0xCF = 0xC1 then some (.op (.popQq (fieldQQ op))) else none,
   fun op => exactBytes.lookup op,
   fun op => if op &&& 0xF8 = 0x80 then (decodeReg8 (fieldS op)).map fun r => .op (.addAR r) else none,
   fun op => if op &&& 0xF8 = 0x90 then (decodeReg8 (fieldS op)).map fun r => .op (.subR r) else none,
   fun op => if op &&& 0xC7 = 0xC2 then some (.opWord (.jpCcNn (fieldC op))) else none,
   fun op => if op &&& 0xC7 = 0xC0 then some (.op (.retCc (fieldC op))) else none]

/-- The byte that selects a second table, if it is one (R116). -/
def decodePfx (op : Byte) : Option Pfx :=
  if op = 0xCB then some .cb else if op = 0xDD then some .dd
  else if op = 0xED then some .ed else if op = 0xFD then some .fd else none

/-- The unprefixed table: the first line of R116 that matches, else UnrecognizedOpcode([op], pc0) (R121). -/
def selectOp (op : Byte) : Selected :=
  (templates.findSome? fun line => line op).getD (.op (.unrecognized op))

/-- LD X,nn for the index register X. -/
def ldIndexNn : Index → Word → Instr
  | .ix => .ldIxNn
  | .iy => .ldIyNn

/-- LD r,(X+d) for the index register X. -/
def ldRIndexD : Index → Reg8 → Byte → Instr
  | .ix => .ldRIxD
  | .iy => .ldRIyD

/-- LD (X+d),r for the index register X. -/
def ldIndexDR : Index → Reg8 → Byte → Instr
  | .ix => fun r d => .ldIxDR d r
  | .iy => fun r d => .ldIyDR d r

/-- PUSH X for the index register X. -/
def pushIndex : Index → Instr
  | .ix => .pushIx
  | .iy => .pushIy

/-- POP X for the index register X. -/
def popIndex : Index → Instr
  | .ix => .popIx
  | .iy => .popIy

/-- The DD and FD tables (R120); `none` where the second byte is not admitted (R123). -/
def selectIndexed (x : Index) (op2 : Byte) : Option Selected :=
  if op2 = 0x21 then some (.opWord (ldIndexNn x))
  else if op2 &&& 0xC7 = 0x46 then (decodeReg8 (fieldT op2)).map fun t => .opByte (ldRIndexD x t)
  else if op2 &&& 0xF8 = 0x70 then (decodeReg8 (fieldS op2)).map fun r => .opByte (ldIndexDR x r)
  else if op2 = 0xE5 then some (.op (pushIndex x))
  else if op2 = 0xE1 then some (.op (popIndex x))
  else none

/-- The table a second byte is looked up in (R120, R122, R123). -/
def selectPrefixed (p : Pfx) (op2 : Byte) : Selected :=
  match p with
  | .cb | .ed => .op (.unrecognizedPrefixed p op2)
  | .dd => (selectIndexed .ix op2).getD (.op (.unrecognizedPrefixed .dd op2))
  | .fd => (selectIndexed .iy op2).getD (.op (.unrecognizedPrefixed .fd op2))

/-- Complete a selected instruction with the operand bytes that follow, low byte first (R115). -/
def Selected.complete : Selected → List Byte → Except DecodeError (Instr × List Byte)
  | .op i, bs => .ok (i, bs)
  | .opByte k, n :: bs => .ok (k n, bs)
  | .opWord k, lo :: hi :: bs => .ok (k (cat hi lo), bs)
  | .opByte _, [] => .error .truncated
  | .opWord _, [] => .error .truncated
  | .opWord _, [_] => .error .truncated

/-- The instruction at the head of a list of code bytes, and the bytes after it (R116). -/
def decode : List Byte → Except DecodeError (Instr × List Byte)
  | [] => .error .truncated
  | op :: bs =>
    match decodePfx op, bs with
    | none, bs => (selectOp op).complete bs
    | some _, [] => .error .truncated
    | some p, op2 :: bs => (selectPrefixed p op2).complete bs

/-- Byte number k of a number whose bits 7..0 are its byte 0. -/
def byteOfNat (w k : Nat) : Byte := BitVec.ofNat 8 (w >>> (8 * k))

/-- The four code bytes, in fetch order, of an instruction whose table bits are w. spec/opcode_table.json numbers the bits of a row
over its selecting bytes "taken big-endian in fetch order" (R129): one byte is bits 7..0; of a DD/FD/CB/ED row the byte 0xDD,
0xFD, 0xCB or 0xED is bits 15..8 and the second byte bits 7..0. Where bits 15..8 hold none of these four, byte k is bits
8k+7..8k. Bits from nbits up are zero. DEDUCED (log entry 8; safe). -/
def tableBytes (nbits w : Nat) : List Byte :=
  let v := w % 2 ^ nbits
  if (decodePfx (byteOfNat v 1)).isSome then [byteOfNat v 1, byteOfNat v 0, byteOfNat v 2, byteOfNat v 3]
  else [byteOfNat v 0, byteOfNat v 1, byteOfNat v 2, byteOfNat v 3]

/-- The instruction the decoder reads from table bits w of a row of nbits bits. -/
def decodeTableWord (nbits w : Nat) : Option Instr :=
  match decode (tableBytes nbits w) with
  | .ok (i, _) => some i
  | .error _ => none

/-! ### The encoder, from the encodings the instruction rules give -/

/-- The 3-bit encoding of a register (10_state.md R32). -/
def Reg8.code : Reg8 → Byte
  | .b => 0
  | .c => 1
  | .d => 2
  | .e => 3
  | .h => 4
  | .l => 5
  | .a => 7

/-- The 2-bit field of a pair dd (10_state.md R35). -/
def PairDD.code : PairDD → Byte
  | .bc => 0
  | .de => 1
  | .hl => 2
  | .sp => 3

/-- The 2-bit field of a pair qq (10_state.md R36). -/
def PairQQ.code : PairQQ → Byte
  | .bc => 0
  | .de => 1
  | .hl => 2
  | .af => 3

/-- The 3-bit condition code (44_control.md R240). -/
def Cond.code : Cond → Byte
  | .nz => 0
  | .z => 1
  | .nc => 2
  | .c => 3
  | .po => 4
  | .pe => 5
  | .p => 6
  | .m => 7

/-- The byte of a second-table selector (R116). -/
def Pfx.byte : Pfx → Byte
  | .cb => 0xCB
  | .dd => 0xDD
  | .ed => 0xED
  | .fd => 0xFD

/-- The bytes of an instruction, in fetch order, from the encoding its rule gives (R111, R151 to R262). -/
def encode : Instr → List Byte
  | .ldRR t r => [0x40 ||| t.code <<< 3 ||| r.code]
  | .ldRN t n => [0x06 ||| t.code <<< 3, n]
  | .ldRHl t => [0x46 ||| t.code <<< 3]
  | .ldHlR r => [0x70 ||| r.code]
  | .ldDdNn p nn => [0x01 ||| p.code <<< 4, loByte nn, hiByte nn]
  | .pushQq p => [0xC5 ||| p.code <<< 4]
  | .popQq p => [0xC1 ||| p.code <<< 4]
  | .ldABc => [0x0A]
  | .ldADe => [0x1A]
  | .ldANn nn => [0x3A, loByte nn, hiByte nn]
  | .ldBcA => [0x02]
  | .ldDeA => [0x12]
  | .ldNnA nn => [0x32, loByte nn, hiByte nn]
  | .exDeHl => [0xEB]
  | .exAfAf => [0x08]
  | .exx => [0xD9]
  | .exSpHl => [0xE3]
  | .addAN n => [0xC6, n]
  | .addAHl => [0x86]
  | .subN n => [0xD6, n]
  | .subHl => [0x96]
  | .jpNn nn => [0xC3, loByte nn, hiByte nn]
  | .jrE e => [0x18, e]
  | .jrNzE e => [0x20, e]
  | .jrZE e => [0x28, e]
  | .jrNcE e => [0x30, e]
  | .jrCE e => [0x38, e]
  | .callNn nn => [0xCD, loByte nn, hiByte nn]
  | .ret => [0xC9]
  | .di => [0xF3]
  | .ei => [0xFB]
  | .inAN n => [0xDB, n]
  | .addAR r => [0x80 ||| r.code]
  | .subR r => [0x90 ||| r.code]
  | .jpCcNn cc nn => [0xC2 ||| cc.code <<< 3, loByte nn, hiByte nn]
  | .retCc cc => [0xC0 ||| cc.code <<< 3]
  | .ldIxNn nn => [0xDD, 0x21, loByte nn, hiByte nn]
  | .ldRIxD t d => [0xDD, 0x46 ||| t.code <<< 3, d]
  | .ldIxDR d r => [0xDD, 0x70 ||| r.code, d]
  | .pushIx => [0xDD, 0xE5]
  | .popIx => [0xDD, 0xE1]
  | .ldIyNn nn => [0xFD, 0x21, loByte nn, hiByte nn]
  | .ldRIyD t d => [0xFD, 0x46 ||| t.code <<< 3, d]
  | .ldIyDR d r => [0xFD, 0x70 ||| r.code, d]
  | .pushIy => [0xFD, 0xE5]
  | .popIy => [0xFD, 0xE1]
  | .unrecognized op => [op]
  | .unrecognizedPrefixed p op2 => [p.byte, op2]

/-- The number of bytes of an instruction, by its format (R110, R111, R124). -/
def Instr.length : Instr → Nat
  | .ldRR _ _ | .ldRHl _ | .ldHlR _ | .pushQq _ | .popQq _ | .ldABc | .ldADe | .ldBcA | .ldDeA | .exDeHl | .exAfAf | .exx
  | .exSpHl | .addAHl | .subHl | .ret | .di | .ei | .addAR _ | .subR _ | .retCc _ | .unrecognized _ => 1
  | .ldRN _ _ | .addAN _ | .subN _ | .jrE _ | .jrNzE _ | .jrZE _ | .jrNcE _ | .jrCE _ | .inAN _
  | .pushIx | .popIx | .pushIy | .popIy | .unrecognizedPrefixed _ _ => 2
  | .ldDdNn _ _ | .ldANn _ | .ldNnA _ | .jpNn _ | .callNn _ | .jpCcNn _ _
  | .ldRIxD _ _ | .ldIxDR _ _ | .ldRIyD _ _ | .ldIyDR _ _ => 3
  | .ldIxNn _ | .ldIyNn _ => 4

end Sys2Proof
end

