-- ==== Sys2Proof/Machine/System.lean ====
section
/-! DEFINITION. The interrupt flip-flops, input, and the two classes of encodings outside the subset (45_system.md;
30_encoding.md R121 to R123; 60_exceptions.md R271). -/

namespace Sys2Proof.Machine

/-- DI (R260). -/
def execDi (s : State) : Result := .next { s with iff1 := false, iff2 := false }

/-- EI (R261); there is no delay to model, since CORE accepts no interrupt. -/
def execEi (s : State) : Result := .next { s with iff1 := true, iff2 := true }

/-- A <- IORead(port) (R262). -/
def inputA (port : Word) (s : State) : State :=
  let (v, s1) := ioRead port s
  s1.setReg8 .a v

/-- IN A,(n) (R262): the port is cat(A, n), the old A high; the byte is the oracle's. -/
def execInAN (n : Byte) (s : State) : Result := .next (inputA (cat s.main.a n) s)

/-- An unprefixed byte outside the subset: UnrecognizedOpcode([op], pc0) (R121). -/
def execUnrecognized (op : Byte) (s : State) : Result := .next (raiseUnrecognized [op] s)

/-- A byte after 0xCB or 0xED, or one R120 does not admit after 0xDD or 0xFD: UnrecognizedOpcode([pfx, op2], pc0) (R122, R123). -/
def execUnrecognizedPrefixed (p : Pfx) (op2 : Byte) (s : State) : Result := .next (raiseUnrecognized [p.byte, op2] s)

end Sys2Proof.Machine
end

