-- ==== Sys2Proof/Machine/Dispatch.lean ====
section
/-! DEFINITION. One arm per instruction: the meaning it has (30_encoding.md R112). -/

namespace Sys2Proof.Machine

/-- The meaning of an instruction on the state its fetch left: PC is past all its bytes. -/
def exec (i : Instr) (s : State) : Host.Outcome State Fault Refusal :=
  match i with
  | .ldRR t r => Sys2Proof.Machine.execLdRR t r s
  | .ldRN t n => Sys2Proof.Machine.execLdRN t n s
  | .ldRHl t => Sys2Proof.Machine.execLdRHl t s
  | .ldHlR r => Sys2Proof.Machine.execLdHlR r s
  | .ldDdNn p nn => Sys2Proof.Machine.execLdDdNn p nn s
  | .pushQq p => Sys2Proof.Machine.execPushQq p s
  | .popQq p => Sys2Proof.Machine.execPopQq p s
  | .ldABc => Sys2Proof.Machine.execLdABc s
  | .ldADe => Sys2Proof.Machine.execLdADe s
  | .ldANn nn => Sys2Proof.Machine.execLdANn nn s
  | .ldBcA => Sys2Proof.Machine.execLdBcA s
  | .ldDeA => Sys2Proof.Machine.execLdDeA s
  | .ldNnA nn => Sys2Proof.Machine.execLdNnA nn s
  | .exDeHl => Sys2Proof.Machine.execExDeHl s
  | .exAfAf => Sys2Proof.Machine.execExAfAf s
  | .exx => Sys2Proof.Machine.execExx s
  | .exSpHl => Sys2Proof.Machine.execExSpHl s
  | .addAN n => Sys2Proof.Machine.execAddAN n s
  | .addAHl => Sys2Proof.Machine.execAddAHl s
  | .subN n => Sys2Proof.Machine.execSubN n s
  | .subHl => Sys2Proof.Machine.execSubHl s
  | .jpNn nn => Sys2Proof.Machine.execJpNn nn s
  | .jrE e => Sys2Proof.Machine.execJrE e s
  | .jrNzE e => Sys2Proof.Machine.execJrNzE e s
  | .jrZE e => Sys2Proof.Machine.execJrZE e s
  | .jrNcE e => Sys2Proof.Machine.execJrNcE e s
  | .jrCE e => Sys2Proof.Machine.execJrCE e s
  | .callNn nn => Sys2Proof.Machine.execCallNn nn s
  | .ret => Sys2Proof.Machine.execRet s
  | .di => Sys2Proof.Machine.execDi s
  | .ei => Sys2Proof.Machine.execEi s
  | .inAN n => Sys2Proof.Machine.execInAN n s
  | .addAR r => Sys2Proof.Machine.execAddAR r s
  | .subR r => Sys2Proof.Machine.execSubR r s
  | .jpCcNn cc nn => Sys2Proof.Machine.execJpCcNn cc nn s
  | .retCc cc => Sys2Proof.Machine.execRetCc cc s
  | .ldIxNn nn => Sys2Proof.Machine.execLdIxNn nn s
  | .ldRIxD t d => Sys2Proof.Machine.execLdRIxD t d s
  | .ldIxDR d r => Sys2Proof.Machine.execLdIxDR d r s
  | .pushIx => Sys2Proof.Machine.execPushIx s
  | .popIx => Sys2Proof.Machine.execPopIx s
  | .ldIyNn nn => Sys2Proof.Machine.execLdIyNn nn s
  | .ldRIyD t d => Sys2Proof.Machine.execLdRIyD t d s
  | .ldIyDR d r => Sys2Proof.Machine.execLdIyDR d r s
  | .pushIy => Sys2Proof.Machine.execPushIy s
  | .popIy => Sys2Proof.Machine.execPopIy s
  | .unrecognized op => Sys2Proof.Machine.execUnrecognized op s
  | .unrecognizedPrefixed p op2 => Sys2Proof.Machine.execUnrecognizedPrefixed p op2 s

end Sys2Proof.Machine
end

