-- ==== Sys2Proof/Machine/Fetch.lean ====
section
/-! DEFINITION. The fetch half of the engine: code bytes are consumed by `Fetch()` alone, in order, before any other access
(20_memory.md R75, R85), and select an instruction as in 30_encoding.md R116. Total on every state: bytes past the end of the image
are drawn (30_encoding.md R126, 60_exceptions.md R274). -/

namespace Sys2Proof.Machine

/-- Fetch the operand bytes a selected instruction waits for, low byte first (30_encoding.md R115). -/
def fetchOperands (sel : Selected) (s : State) : Instr × State :=
  match sel with
  | .op i => (i, s)
  | .opByte k =>
    let (n, s1) := fetch s
    (k n, s1)
  | .opWord k =>
    let (lo, s1) := fetch s
    let (hi, s2) := fetch s1
    (k (cat hi lo), s2)

/-- Fetch one instruction: the opcode, the second byte after a prefix, and the operand bytes (30_encoding.md R116). -/
def fetchInstr (s : State) : Instr × State :=
  let (op, s1) := fetch s
  match decodePfx op with
  | none => fetchOperands (selectOp op) s1
  | some p =>
    let (op2, s2) := fetch s1
    fetchOperands (selectPrefixed p op2) s2

/-- The code byte at address a, as the image holds it. -/
def State.codeByte (s : State) (a : Word) : Byte := s.byteAt .code a.toNat

/-- The n code bytes from address a on, addresses wrapping modulo 2^16 (00_scope.md R9). -/
def State.codeBytes (s : State) : Word → Nat → List Byte
  | _, 0 => []
  | a, n + 1 => s.codeByte a :: s.codeBytes (a + 1) n

/-- The n addresses from a on lie in the image. -/
def codeInRange (p : Params) : Word → Nat → Bool
  | _, 0 => true
  | a, n + 1 => addressValid p .code a && codeInRange p (a + 1) n

/-- One byte of the image placed at address a, the image made long enough to hold it. -/
def placeCodeByte (s : State) (a : Word) (v : Byte) : State :=
  { s with
    code := s.code.set a.toNat v
    params := { s.params with imageLen := max s.params.imageLen (a.toNat + 1) } }

/-- Bytes of the image placed from address a on, addresses wrapping modulo 2^16. -/
def placeCode : Word → List Byte → State → State
  | _, [], s => s
  | a, b :: bs, s => placeCode (a + 1) bs (placeCodeByte s a b)

end Sys2Proof.Machine
end

