-- ==== Sys2Proof/Machine/Step.lean ====
section
/-! DEFINITION. One step: refuse parameters outside their ranges (00_scope.md R7), else fetch one whole instruction and run it
(R11). What the step reported is in `report` of the next state (60_exceptions.md R273). -/

namespace Sys2Proof.Machine

/-- One call of the Cycle Driver (00_scope.md R2, R11). Refusing illegal parameters here is a DESIGN CHOICE (log entry 9; safe). -/
def step (s : State) : Host.Outcome State Fault Refusal :=
  if s.params.valid then
    let (i, s1) := fetchInstr (beginStep s)
    exec i s1
  else .refused .parameterOutOfRange

/-- The state with the instruction of table bits w placed where the next fetch begins: its bytes in the image from PC on, the image
made long enough to hold them. It stands for the loader's work: DESIGN CHOICE (log entry 7; safe). -/
def State.withFetchWord (s : State) (nbits w : Nat) : State := placeCode s.pc (tableBytes nbits w) s

end Sys2Proof.Machine
end

