-- ==== Sys2Proof/Machine/Boot.lean ====
section
/-! DEFINITION. What must happen before the first step (70_reset_and_hazards.md R300, R303): the loader loads the whole image into
CODE, then CORE is reset. -/

namespace Sys2Proof.Machine

/-- Load `IMAGE_LEN` bytes of the bytes available, then reset. Parameters outside their ranges are refused (00_scope.md R7); with
fewer bytes available than expected the load fails and no step is ever run (R303). That the loader's work is a function beside
`step` is DEDUCED (log entry 11; safe). -/
def boot (p : Params) (available : List Byte) : Result :=
  if p.valid then
    if available.length < p.imageLen then .fault .loadFailure
    else .next { State.resetWith p with code := Memory.ofBytes 0 (available.take p.imageLen) }
  else .refused .parameterOutOfRange

end Sys2Proof.Machine
end

