-- ==== Sys2Proof/Safety.lean ====
section
/-! DEFINITION. The terms claims use: the invariant of the machine, what a clean step is, which registers and bytes an instruction
may change (10_state.md R50, 20_memory.md R70), and the pieces the statements about single instructions are made of. -/

namespace Sys2Proof.Safety

open Sys2Proof.Machine

/-! ### The invariant, and clean steps -/

/-- The parameters lie in the ranges of 00_scope.md R6, every space is in canonical form with no byte outside its size
(20_memory.md R70), and a report that is not clear has been noted (92_eei_decisions.md D23). -/
abbrev Invariant (s : State) : Prop :=
  s.params.valid = true ∧
  (s.code.wf ∧ s.code.below s.params.imageLen) ∧
  (s.ram.wf ∧ s.ram.below Config.ramSize) ∧
  (s.vram.wf ∧ s.vram.below Config.vramSize) ∧
  (s.stack.wf ∧ s.stack.below s.params.stackSize) ∧
  (s.report ≠ Report.clear → s.sticky = true)

/-- The last step was Executed with no condition: the premise claims about runs take (92_eei_decisions.md D23, D32). -/
abbrev Clean (s : State) : Prop := s.report = Report.clear

/-! ### Registers by name -/

/-- The registers of 10_state.md R30 other than PC. -/
inductive RegName where
  | a | f | b | c | d | e | h | l
  | a' | f' | b' | c' | d' | e' | h' | l'
  | ix | iy | sp | i | r | iff1 | iff2
  deriving DecidableEq, Repr

/-- The value of a register as a number. -/
def readReg (s : State) : RegName → Nat
  | .a => s.main.a.toNat
  | .f => s.main.f.toNat
  | .b => s.main.b.toNat
  | .c => s.main.c.toNat
  | .d => s.main.d.toNat
  | .e => s.main.e.toNat
  | .h => s.main.h.toNat
  | .l => s.main.l.toNat
  | .a' => s.alt.a.toNat
  | .f' => s.alt.f.toNat
  | .b' => s.alt.b.toNat
  | .c' => s.alt.c.toNat
  | .d' => s.alt.d.toNat
  | .e' => s.alt.e.toNat
  | .h' => s.alt.h.toNat
  | .l' => s.alt.l.toNat
  | .ix => s.ix.toNat
  | .iy => s.iy.toNat
  | .sp => s.sp.toNat
  | .i => s.regI.toNat
  | .r => s.regR.toNat
  | .iff1 => s.iff1.toNat
  | .iff2 => s.iff2.toNat

/-- An 8-bit register operand by name. -/
def regName : Reg8 → RegName
  | .b => .b
  | .c => .c
  | .d => .d
  | .e => .e
  | .h => .h
  | .l => .l
  | .a => .a

/-- The registers of a pair dd. -/
def pairDDRegs : PairDD → List RegName
  | .bc => [.b, .c]
  | .de => [.d, .e]
  | .hl => [.h, .l]
  | .sp => [.sp]

/-- The registers of a pair qq. -/
def pairQQRegs : PairQQ → List RegName
  | .bc => [.b, .c]
  | .de => [.d, .e]
  | .hl => [.h, .l]
  | .af => [.a, .f]

/-- The registers other than PC an instruction may write, read off the table of 10_state.md R50. -/
def writes : Instr → List RegName
  | .ldRR t _ | .ldRN t _ | .ldRHl t | .ldRIxD t _ | .ldRIyD t _ => [regName t]
  | .ldABc | .ldADe | .ldANn _ | .inAN _ => [.a]
  | .ldHlR _ | .ldBcA | .ldDeA | .ldNnA _ | .ldIxDR _ _ | .ldIyDR _ _ => []
  | .ldDdNn p _ => pairDDRegs p
  | .pushQq _ | .pushIx | .pushIy | .callNn _ | .ret | .retCc _ => [.sp]
  | .popQq p => .sp :: pairQQRegs p
  | .popIx => [.sp, .ix]
  | .popIy => [.sp, .iy]
  | .exDeHl => [.d, .e, .h, .l]
  | .exAfAf => [.a, .f, .a', .f']
  | .exx => [.b, .c, .d, .e, .h, .l, .b', .c', .d', .e', .h', .l']
  | .exSpHl => [.h, .l]
  | .addAR _ | .addAN _ | .addAHl | .subR _ | .subN _ | .subHl => [.a, .f]
  | .jpNn _ | .jpCcNn _ _ | .jrE _ | .jrNzE _ | .jrZE _ | .jrNcE _ | .jrCE _ => []
  | .di | .ei => [.iff1, .iff2]
  | .ldIxNn _ => [.ix]
  | .ldIyNn _ => [.iy]
  | .unrecognized _ | .unrecognizedPrefixed _ _ => []

/-- The instructions that may write PC with a target (44_control.md). -/
def transfersControl : Instr → Bool
  | .jpNn _ | .jpCcNn _ _ | .jrE _ | .jrNzE _ | .jrZE _ | .jrNcE _ | .jrCE _ | .callNn _ | .ret | .retCc _ => true
  | .ldRR _ _ | .ldRN _ _ | .ldRHl _ | .ldHlR _ | .ldDdNn _ _ | .pushQq _ | .popQq _ | .ldABc | .ldADe | .ldANn _ | .ldBcA
  | .ldDeA | .ldNnA _ | .exDeHl | .exAfAf | .exx | .exSpHl | .addAN _ | .addAHl | .subN _ | .subHl | .di | .ei | .inAN _
  | .addAR _ | .subR _ | .ldIxNn _ | .ldRIxD _ _ | .ldIxDR _ _ | .pushIx | .popIx | .ldIyNn _ | .ldRIyD _ _ | .ldIyDR _ _
  | .pushIy | .popIy | .unrecognized _ | .unrecognizedPrefixed _ _ => false

/-- The bytes an instruction stores to, on the state its fetch left. -/
def storesTo (i : Instr) (s : State) : List (Space × Nat) :=
  match i with
  | .ldHlR _ => [(.ram, s.hl.toNat)]
  | .ldBcA => [(.ram, s.bc.toNat)]
  | .ldDeA => [(.ram, s.de.toNat)]
  | .ldNnA nn => [(.ram, nn.toNat)]
  | .ldIxDR d _ => [(.ram, (s.indexed .ix d).toNat)]
  | .ldIyDR d _ => [(.ram, (s.indexed .iy d).toNat)]
  | .pushQq _ | .pushIx | .pushIy | .callNn _ => [(.stack, (s.sp - 1).toNat), (.stack, (s.sp - 2).toNat)]
  | .exSpHl => [(.stack, s.sp.toNat), (.stack, (s.sp + 1).toNat)]
  | .ldRR _ _ | .ldRN _ _ | .ldRHl _ | .ldDdNn _ _ | .popQq _ | .ldABc | .ldADe | .ldANn _ | .exDeHl | .exAfAf | .exx
  | .addAN _ | .addAHl | .subN _ | .subHl | .jpNn _ | .jrE _ | .jrNzE _ | .jrZE _ | .jrNcE _ | .jrCE _ | .ret | .di | .ei
  | .inAN _ | .addAR _ | .subR _ | .jpCcNn _ _ | .retCc _ | .ldIxNn _ | .ldRIxD _ _ | .popIx | .ldIyNn _ | .ldRIyD _ _
  | .popIy | .unrecognized _ | .unrecognizedPrefixed _ _ => []

/-! ### Pieces of statements about single instructions -/

/-- The state with conditions added to its report. -/
def withConditions (cs : List OutOfRange) (s : State) : State :=
  { s with report := ⟨s.report.kind, s.report.conditions ++ cs⟩, sticky := s.sticky || !cs.isEmpty }

/-- The bank k' is k with register t holding v: every other 8-bit register and F are as in k. -/
def BankLoads (k k' : Bank) (t : Reg8) (v : Byte) : Prop :=
  k'.get t = v ∧ (∀ q, q ≠ t → k'.get q = k.get q) ∧ k'.f = k.f

/-- The instruction i loads register t from RAM at address a: in range, the byte there; out of range, the access is reported and
t takes a fresh free byte. Everything else of the state is unchanged (20_memory.md R76, R79, R81). -/
def LoadsFromRam (i : Instr) (s : State) (t : Reg8) (a : Word) : Prop :=
  (a.toNat < 0x2000 → ∃ k, exec i s = .next { s with main := k } ∧ BankLoads s.main k t (s.byteAt .ram a.toNat)) ∧
  (¬ a.toNat < 0x2000 → ∃ k,
    exec i s = .next { withConditions [⟨.ram, a, .read⟩] s with main := k, draws := s.draws + 1 } ∧
    BankLoads s.main k t (Config.draw s.draws))

/-- The instruction i stores the byte v to RAM at address a: in range, RAM holds v there and every other byte is as before; out of
range, the access is reported and nothing else changes (20_memory.md R77, R79, R81). -/
def StoresToRam (i : Instr) (s : State) (a : Word) (v : Byte) : Prop :=
  (a.toNat < 0x2000 → ∃ m, exec i s = .next { s with ram := m } ∧ m.get? a.toNat = some v ∧
    ∀ b, b ≠ a.toNat → m.get? b = s.ram.get? b) ∧
  (¬ a.toNat < 0x2000 → exec i s = .next (withConditions [⟨.ram, a, .write⟩] s))

/-- The conditions of one access each to the stack addresses as, in order: those out of range. -/
def stackConditions (s : State) (k : AccessKind) (as : List Word) : List OutOfRange :=
  (as.filter fun a => !decide (a.toNat < s.params.stackSize)).map fun a => ⟨.stack, a, k⟩

/-- The STACK space m is that of s with the 16-bit v stored at address a (low byte) and a + 1 (high byte), each byte only where its
address is in range (20_memory.md R82, R83). -/
def StackHolds (s : State) (m : Memory) (a : Word) (v : Word) : Prop :=
  ∀ b, m.get? b =
    if b < s.params.stackSize ∧ b = (a + 1).toNat then some (hiByte v)
    else if b < s.params.stackSize ∧ b = a.toNat then some (loByte v)
    else s.stack.get? b

/-- The state u is s with v pushed: SP less 2, v at the new SP, a report for each byte out of range (41_load16_stack.md R180). -/
def Pushed (s u : State) (v : Word) : Prop :=
  ∃ m, u = { withConditions (stackConditions s .write [s.sp - 1, s.sp - 2]) s with sp := s.sp - 2, stack := m } ∧
    StackHolds s m (s.sp - 2) v

/-- The low byte a pop reads: STACK[SP], or a fresh free byte (41_load16_stack.md R181). -/
def popLo (s : State) : Byte :=
  if s.sp.toNat < s.params.stackSize then s.byteAt .stack s.sp.toNat else Config.draw s.draws

/-- The high byte a pop reads: STACK[SP+1], or a fresh free byte, drawn after that of the low byte if there was one
(41_load16_stack.md R181). -/
def popHi (s : State) : Byte :=
  if (s.sp + 1).toNat < s.params.stackSize then s.byteAt .stack (s.sp + 1).toNat
  else Config.draw (if s.sp.toNat < s.params.stackSize then s.draws else s.draws + 1)

/-- The state after the two reads of a pop: SP plus 2, a report and a draw for each byte out of range (41_load16_stack.md R181). -/
def popped (s : State) : State :=
  let cs := stackConditions s .read [s.sp, s.sp + 1]
  { withConditions cs s with sp := s.sp + 2, draws := s.draws + cs.length }

/-- The state after an ADD or SUB of the operand v: A and F as 43_arith.md R210 gives them, nothing else changed. -/
def aluDone (op : AluOp) (v : Byte) (s : State) : State :=
  { s with main := { s.main with
      a := (alu s.params s.iff2 op s.main.a v).1
      f := (s.main.f &&& (if s.params.flagModel = .zilog then 0x28 else 0x29)) ||| (alu s.params s.iff2 op s.main.a v).2 } }

/-- The code bytes at PC are in the image and decode to i: the state in which a step runs i. -/
def FetchesInRange (s : State) (i : Instr) : Prop :=
  codeInRange s.params s.pc i.length = true ∧ decode (s.codeBytes s.pc 4) = .ok (i, (s.codeBytes s.pc 4).drop i.length)

/-- The state in which a step that fetches i in range runs it: nothing reported yet, PC past its bytes. -/
def atInstr (s : State) (i : Instr) : State := { s with report := Report.clear, pc := s.pc + BitVec.ofNat 16 i.length }

/-- The conditions of fetching n code bytes from address a on: one for each byte past the image, in order (20_memory.md R75, R81). -/
def fetchConditions (p : Params) : Word → Nat → List OutOfRange
  | _, 0 => []
  | a, n + 1 =>
    if a.toNat < p.imageLen then fetchConditions p (a + 1) n else ⟨.code, a, .fetch⟩ :: fetchConditions p (a + 1) n

/-- The n bytes fetched from address a on, with d draws made before: the image's byte, or a fresh drawn byte for each byte past the
image, the opcode byte and every operand byte alike (60_exceptions.md R274). -/
def fetchedBytes (s : State) : Word → Nat → Nat → List Byte
  | _, _, 0 => []
  | a, d, n + 1 =>
    if a.toNat < s.params.imageLen then s.codeByte a :: fetchedBytes s (a + 1) d n
    else Config.draw d :: fetchedBytes s (a + 1) (d + 1) n

/-- The state after n code bytes have been fetched: PC past them, and a report and a draw for each byte past the image. -/
def consumed (s : State) (n : Nat) : State :=
  let cs := fetchConditions s.params s.pc n
  { withConditions cs s with pc := s.pc + BitVec.ofNat 16 n, draws := s.draws + cs.length }

/-- The instruction a step from s fetches, whether or not its bytes lie in the image. -/
def fetched (s : State) : Instr := (fetchInstr (beginStep s)).1

end Sys2Proof.Safety
end

