-- ==== Sys2Proof/Certificates/Slice0/Obligations.lean ====
section
/-! DEFINITION. The statements for the provers, in the order of OBLIGATIONS.json. A statement's next state is written as a record
update of the state it starts from, so every field it does not name is unchanged: that is its frame. -/

open Sys2Proof Sys2Proof.Machine Sys2Proof.Safety

/-! ### Parameters, reset, boot -/

/-- 10_state.md R49: the value of every register after reset, for all parameters. -/
def Obligations.ResetGivesEveryRegisterItsValue : Prop :=
  ∀ p : Params, p.valid = true →
    (∀ x : RegName, x ≠ .sp → readReg (State.resetWith p) x = 0) ∧
    readReg (State.resetWith p) .sp = p.stackSize ∧ (State.resetWith p).pc = p.entryPc

/-- The invariant holds after reset, whatever the legal parameters, and at `State.reset`, whose OPEN parameters are the model's choice
(log entry 1). -/
def Obligations.ResetMeetsTheInvariant : Prop :=
  (∀ p : Params, p.valid = true → Invariant (State.resetWith p)) ∧ Invariant State.reset

/-- 00_scope.md R7: parameters outside the ranges of R6 are refused, `PV_MASK` = 0x03 among them. R7 does not say when: that the
refusal comes at `step` is the model's choice (log entry 9). -/
def Obligations.StepRefusesIllegalParameters : Prop :=
  ∀ s : State,
    (¬ (2 ≤ s.params.stackSize ∧ s.params.stackSize ≤ 0xFFFF ∧ 1 ≤ s.params.imageLen ∧ s.params.imageLen ≤ 0x80000 ∧
        s.params.pvMask = 0x04) → step s = .refused .parameterOutOfRange) ∧
    (s.params.pvMask = 0x03 → step s = .refused .parameterOutOfRange)

/-- 70_reset_and_hazards.md R303, R300: the whole image is loaded, then CORE is reset; a short load is fatal to startup.
That the load is the function `boot` beside `step`, that its failure is the fault `loadFailure`, and that the first `IMAGE_LEN` bytes
are taken when more are available, are the model's reading (log entry 11). -/
def Obligations.BootLoadsTheImageThenResets : Prop :=
  ∀ (p : Params) (bytes : List Byte), p.valid = true →
    (p.imageLen ≤ bytes.length → ∃ m, boot p bytes = .next { State.resetWith p with code := m } ∧
      Invariant { State.resetWith p with code := m } ∧ ∀ a, a < p.imageLen → m.get? a = bytes[a]?) ∧
    (bytes.length < p.imageLen → boot p bytes = .fault .loadFailure)

/-! ### Decoding -/

/-- Every well-formed instruction's bytes decode to it, whatever bytes follow. -/
def Obligations.DecodeOfEncodeIsTheInstruction : Prop :=
  ∀ (i : Instr) (rest : List Byte), i.wf = true → decode (encode i ++ rest) = .ok (i, rest)

/-- What decodes is well-formed, and its bytes are exactly the ones consumed: each byte sequence has one meaning. -/
def Obligations.EncodeOfDecodeIsTheBytes : Prop :=
  ∀ (bs rest : List Byte) (i : Instr), decode bs = .ok (i, rest) → i.wf = true ∧ encode i ++ rest = bs

/-- 30_encoding.md section 3, the spec's derived sentence "Decoding is total" (R126): decoding gives an outcome for every byte
sequence, and consumes the length of the format. -/
def Obligations.DecodingIsTotal : Prop :=
  ∀ (b0 b1 b2 b3 : Byte) (rest : List Byte), ∃ i,
    decode (b0 :: b1 :: b2 :: b3 :: rest) = .ok (i, (b0 :: b1 :: b2 :: b3 :: rest).drop i.length) ∧
    1 ≤ i.length ∧ i.length ≤ 4

/-- 30_encoding.md R121's list, which the spec marks as derived: an unprefixed byte is unrecognized exactly when it is one of the 115, and one byte is consumed. -/
def Obligations.UnadmittedOpcodesAreUnrecognized : Prop :=
  ∀ (op : Byte) (rest : List Byte),
    op.toNat ∈ unrecognizedBytes ↔ decode (op :: rest) = .ok (.unrecognized op, rest)

/-- 30_encoding.md R122, R123, R120: after CB or ED every byte, and after DD or FD every byte outside the 17 admitted, a second
prefix among them, is unrecognized and two bytes are consumed; each of the 17 is not. -/
def Obligations.UnadmittedSecondBytesAreUnrecognized : Prop :=
  ∀ (p : Pfx) (op2 : Byte) (rest : List Byte),
    (p = .cb ∨ p = .ed ∨ op2.toNat ∉ indexedSecondBytes) ↔
      decode (p.byte :: op2 :: rest) = .ok (.unrecognizedPrefixed p op2, rest)

/-- 10_state.md R33: which codes name a register; R34: the sentinel for every other code; R32: which register each code names, which
the spec marks as general knowledge and the model takes as it stands (log entry 10). -/
def Obligations.RegisterDecodeAcceptsSevenCodes : Prop :=
  (∀ code : Nat, isRegisterEncodingValid code = true ↔ code ≤ 7 ∧ code ≠ 6) ∧
  (∀ code : Nat, decodeReg8 code = none ↔ isRegisterEncodingValid code = false) ∧
  [0, 1, 2, 3, 4, 5, 7].map decodeReg8 =
    [some Reg8.b, some Reg8.c, some Reg8.d, some Reg8.e, some Reg8.h, some Reg8.l, some Reg8.a]

/-- Words written out from the encodings of R151, R183, R156, R187, R203, R218, R242, R245, R262 and R123 decode to what they
stand for. -/
def Obligations.WrittenOutWordsDecode : Prop :=
  decode [0b01111000] = .ok (.ldRR .a .b, []) ∧
  decode [0b00110001, 0x00, 0x01] = .ok (.ldDdNn .sp 0x0100, []) ∧
  decode [0b11111101, 0b01110111, 0x05] = .ok (.ldIyDR 0x05 .a, []) ∧
  decode [0b11011101, 0b11100101] = .ok (.pushIx, []) ∧
  decode [0b11100011] = .ok (.exSpHl, []) ∧
  decode [0b11010110, 0x08] = .ok (.subN 0x08, []) ∧
  decode [0b11101010, 0x00, 0x20] = .ok (.jpCcNn .pe 0x2000, []) ∧
  decode [0b00100000, 0xFC] = .ok (.jrNzE 0xFC, []) ∧
  decode [0b11011011, 0x7E] = .ok (.inAN 0x7E, []) ∧
  decode [0b11011101, 0b11011101, 0x21] = .ok (.unrecognizedPrefixed .dd 0xDD, [0x21])

/-! ### The step -/

/-- A step whose code bytes lie in the image runs the decoded instruction, with PC past its bytes and nothing reported yet. -/
def Obligations.StepRunsTheDecodedInstruction : Prop :=
  ∀ (s : State) (i : Instr), s.params.valid = true → FetchesInRange s i → step s = exec i (atInstr s i)

/-- 20_memory.md R75 and the spec's derived sentence in 60_exceptions.md R274. An opcode fetched past the image is reported first, PC
advances, and a drawn byte is decoded. And from every state, wherever its bytes lie, a step runs the instruction its fetched bytes
decode to, on the state that has them consumed: each byte past the image, opcode or operand, is reported and drawn in fetch order.
The drawn bytes and their count are the free values of log entry 3, the sticky mark is log entry 5's. -/
def Obligations.OutOfRangeOpcodeFetchIsDrawn : Prop :=
  ∀ s : State, s.params.valid = true →
    (¬ s.pc.toNat < s.params.imageLen →
      fetch (beginStep s) = (Config.draw s.draws,
        { s with pc := s.pc + 1, draws := s.draws + 1, sticky := true,
                 report := ⟨.executed, [⟨.code, s.pc, .fetch⟩]⟩ }) ∧
      ∃ u, step s = .next u ∧ u.report.conditions.head? = some ⟨.code, s.pc, .fetch⟩) ∧
    decode (fetchedBytes s s.pc s.draws 4) = .ok (fetched s, (fetchedBytes s s.pc s.draws 4).drop (fetched s).length) ∧
    step s = exec (fetched s) (consumed (beginStep s) (fetched s).length)

/-- From every state with legal parameters a step completes: no byte sequence, register or memory content stops CORE. -/
def Obligations.EveryStepCompletes : Prop :=
  ∀ s : State, s.params.valid = true → ∃ u, step s = .next u

/-- The invariant is kept by every step: legal parameters, every space in canonical form with no byte outside its size. Keeping memory
in that form, and the sticky mark, are the model's choice (log entries 2 and 5). -/
def Obligations.StepKeepsTheInvariant : Prop :=
  ∀ s u : State, Invariant s → step s = .next u → Invariant u

/-- 10_state.md R37, 20_memory.md R75, R81: from every state with legal parameters, wherever the instruction's bytes lie, the step
reports each of them past the image first, in order; and an instruction that does not transfer control leaves PC at pc0 plus its
length, modulo 2^16, even when a fetch is out of range. -/
def Obligations.PcAdvancesByTheLength : Prop :=
  ∀ s : State, s.params.valid = true → ∃ u, step s = .next u ∧
    (∃ cs, u.report.conditions = fetchConditions s.params s.pc (fetched s).length ++ cs) ∧
    (transfersControl (fetched s) = false → u.pc = s.pc + BitVec.ofNat 16 (fetched s).length)

/-- 60_exceptions.md R271: a step on bytes outside the subset ends with UnrecognizedOpcode(bytes, pc0) and changes PC only, by the
bytes consumed: first with the bytes in the image, then wherever they lie, each byte past the image reported and drawn (the report
is its output; `draws` and `sticky` are the model's own: log entries 3 and 5). -/
def Obligations.UnrecognizedStepChangesPcOnly : Prop :=
  (∀ (s : State) (i : Instr), s.params.valid = true → FetchesInRange s i →
    (∃ op, i = .unrecognized op) ∨ (∃ p op2, i = .unrecognizedPrefixed p op2) →
    step s = .next { s with
      pc := s.pc + BitVec.ofNat 16 i.length, sticky := true,
      report := ⟨.unrecognizedOpcode (encode i) s.pc, []⟩ }) ∧
  (∀ s : State, s.params.valid = true →
    (∃ op, fetched s = .unrecognized op) ∨ (∃ p op2, fetched s = .unrecognizedPrefixed p op2) →
    step s = .next { s with
      pc := s.pc + BitVec.ofNat 16 (fetched s).length, sticky := true,
      draws := s.draws + (fetchConditions s.params s.pc (fetched s).length).length,
      report := ⟨.unrecognizedOpcode (encode (fetched s)) s.pc, fetchConditions s.params s.pc (fetched s).length⟩ })

/-- 60_exceptions.md section 2, the spec's derived sentence "no data or stack condition follows it" (R275): the conditions of a step
that ends in UnrecognizedOpcode are fetch reports only. -/
def Obligations.UnrecognizedStepReportsFetchesOnly : Prop :=
  ∀ s u : State, step s = .next u → u.report.kind ≠ .executed →
    ∀ c ∈ u.report.conditions, c.space = .code ∧ c.kind = .fetch

/-- 20_memory.md R86, R78: each out-of-range read or fetch draws exactly one fresh free byte, IN draws one, and nothing else draws:
of one instruction, whatever its fetch has reported before, and of a whole step, its fetches counted. Counting draws in `draws` is
the model's choice (log entry 3). -/
def Obligations.DrawsAreCountedOncePerRead : Prop :=
  (∀ (i : Instr) (s u : State), exec i s = .next u → ∃ cs,
    u.report.conditions = s.report.conditions ++ cs ∧
    u.draws = s.draws + (cs.filter fun c => c.kind ≠ .write).length + (if ∃ n, i = .inAN n then 1 else 0)) ∧
  (∀ s u : State, step s = .next u →
    u.draws = s.draws + (u.report.conditions.filter fun c => c.kind ≠ .write).length +
      (if ∃ n, fetched s = .inAN n then 1 else 0))

/-! ### Rules over all instructions -/

/-- 10_state.md section 9, the table the spec marks as derived (R50): an instruction changes no register but those the table lists for
it, besides PC. -/
def Obligations.OnlyListedRegistersChange : Prop :=
  ∀ (i : Instr) (s u : State) (x : RegName), exec i s = .next u → x ∉ writes i → readReg u x = readReg s x

/-- Every byte of every space but those the instruction stores to reads as before: the addresses are the operand's, or those of the
stack slot, computed on the state the fetch left. -/
def Obligations.OnlyStoredBytesChange : Prop :=
  ∀ (i : Instr) (s u : State) (sp : Space) (a : Nat), exec i s = .next u → (sp, a) ∉ storesTo i s →
    u.byteAt sp a = s.byteAt sp a

/-- 20_memory.md R73: the CODE space does not change while CORE runs; nor does VRAM, which no instruction writes (R70). Nor do the
parameters, whose values are fixed for the hardware (00_scope.md section 3); that they are state a step could change is the model's
choice (log entry 9). -/
def Obligations.CodeVramAndParametersNeverChange : Prop :=
  ∀ s u : State, step s = .next u → u.code = s.code ∧ u.vram = s.vram ∧ u.params = s.params

/-- 10_state.md R45: no step changes I or R; R is not incremented by fetch. -/
def Obligations.InterruptAndRefreshRegistersNeverChange : Prop :=
  ∀ s u : State, step s = .next u → u.regI = s.regI ∧ u.regR = s.regR

/-- 10_state.md R45, 20_memory.md R70, 60_exceptions.md R273: no step depends on I, R, the contents of VRAM, or what earlier steps
reported. -/
def Obligations.StepIgnoresUnreadState : Prop :=
  ∀ (s u : State) (vi vr : Byte) (m : Memory) (rep : Report), step s = .next u →
    step { s with regI := vi, regR := vr, vram := m, report := rep } = .next { u with regI := vi, regR := vr, vram := m }

/-- 10_state.md R46: with `FLAG_MODEL` = zilog no instruction reads IFF1 or IFF2. -/
def Obligations.ZilogStepIgnoresInterruptFlipFlops : Prop :=
  ∀ (s u : State) (x y : Bool), s.params.flagModel = .zilog → step s = .next u →
    ∃ x' y', step { s with iff1 := x, iff2 := y } = .next { u with iff1 := x', iff2 := y' }

/-! ### Memory and stack operations -/

/-- 20_memory.md R76: a read in range gives the byte and has no other effect; out of range it is reported, with kind fetch for
CODE and read otherwise, and gives a drawn byte. That the byte is `Config.draw` of a counter which advances is the model's choice
(log entry 3), and so is the sticky mark (log entry 5). -/
def Obligations.MemReadReportsOutOfRange : Prop :=
  ∀ (sp : Space) (a : Word) (s : State),
    (a.toNat < spaceSize s.params sp → memRead sp a s = (s.byteAt sp a.toNat, s)) ∧
    (¬ a.toNat < spaceSize s.params sp → memRead sp a s = (Config.draw s.draws,
      { withConditions [⟨sp, a, if sp = .code then .fetch else .read⟩] s with draws := s.draws + 1 }))

/-- 20_memory.md R77: a write in range sets that byte and no other byte of any space; out of range it is reported and changes no
byte. The report also sets the sticky mark, which is the model's own (log entry 5). -/
def Obligations.MemWriteSetsOneByteOrReports : Prop :=
  ∀ (sp : DataSpace) (a : Word) (v : Byte) (s : State),
    (a.toNat < spaceSize s.params sp.toSpace →
      (memWrite sp a v s).byteAt sp.toSpace a.toNat = v ∧
      (∀ sp' b, (sp', b) ≠ (sp.toSpace, a.toNat) → (memWrite sp a v s).byteAt sp' b = s.byteAt sp' b) ∧
      (memWrite sp a v s).report = s.report) ∧
    (¬ a.toNat < spaceSize s.params sp.toSpace → memWrite sp a v s = withConditions [⟨sp.toSpace, a, .write⟩] s)

/-- 41_load16_stack.md section 1, the consequence the spec marks as derived (R182): with 2 ≤ SP ≤ STACK_SIZE, a push then a pop gives back the value and SP and reports nothing. -/
def Obligations.PopUndoesPush : Prop :=
  ∀ (v : Word) (s : State), s.params.valid = true → 2 ≤ s.sp.toNat → s.sp.toNat ≤ s.params.stackSize →
    ∃ m, pop16 (push16 v s) = (v, { s with stack := m })

/-! ### 8-bit loads -/

/-- 40_load8.md R151. -/
def Obligations.LdRegRegCopies : Prop :=
  ∀ (t r : Reg8) (s : State), ∃ k,
    exec (.ldRR t r) s = .next { s with main := k } ∧ BankLoads s.main k t (s.reg8 r)

/-- 40_load8.md R152. -/
def Obligations.LdRegImmediateLoads : Prop :=
  ∀ (t : Reg8) (n : Byte) (s : State), ∃ k,
    exec (.ldRN t n) s = .next { s with main := k } ∧ BankLoads s.main k t n

/-- 40_load8.md R153, R155: the register loads from RAM, at (HL), (IX+d) and (IY+d); H and L as targets too. -/
def Obligations.LdRegFromRam : Prop :=
  ∀ (t : Reg8) (d : Byte) (s : State),
    LoadsFromRam (.ldRHl t) s t (cat s.main.h s.main.l) ∧
    LoadsFromRam (.ldRIxD t d) s t (s.ix + sext16 d) ∧
    LoadsFromRam (.ldRIyD t d) s t (s.iy + sext16 d)

/-- 40_load8.md R157, R158, R159: the accumulator loads. -/
def Obligations.LdAccumulatorFromRam : Prop :=
  ∀ (nn : Word) (s : State),
    LoadsFromRam .ldABc s .a (cat s.main.b s.main.c) ∧
    LoadsFromRam .ldADe s .a (cat s.main.d s.main.e) ∧
    LoadsFromRam (.ldANn nn) s .a nn

/-- 40_load8.md R154, R156: the register stores to RAM. -/
def Obligations.LdRamFromReg : Prop :=
  ∀ (r : Reg8) (d : Byte) (s : State),
    StoresToRam (.ldHlR r) s (cat s.main.h s.main.l) (s.reg8 r) ∧
    StoresToRam (.ldIxDR d r) s (s.ix + sext16 d) (s.reg8 r) ∧
    StoresToRam (.ldIyDR d r) s (s.iy + sext16 d) (s.reg8 r)

/-- 40_load8.md R160, R161, R162: the accumulator stores. -/
def Obligations.LdRamFromAccumulator : Prop :=
  ∀ (nn : Word) (s : State),
    StoresToRam .ldBcA s (cat s.main.b s.main.c) s.main.a ∧
    StoresToRam .ldDeA s (cat s.main.d s.main.e) s.main.a ∧
    StoresToRam (.ldNnA nn) s nn s.main.a

/-- 00_scope.md R8, R9: the address of (X+d) is X plus the signed displacement, modulo 2^16. -/
def Obligations.IndexedAddressIsSignedAndWraps : Prop :=
  ∀ (x : Index) (d : Byte) (s : State),
    ((s.indexed x d).toNat : Int) =
      ((s.index x).toNat + (if d.toNat < 0x80 then (d.toNat : Int) else (d.toNat : Int) - 256)) % 65536

/-! ### 16-bit loads and the stack -/

/-- 41_load16_stack.md R183. -/
def Obligations.LdPairImmediateLoads : Prop :=
  ∀ (nn : Word) (s : State),
    exec (.ldDdNn .bc nn) s = .next { s with main := { s.main with b := hiByte nn, c := loByte nn } } ∧
    exec (.ldDdNn .de nn) s = .next { s with main := { s.main with d := hiByte nn, e := loByte nn } } ∧
    exec (.ldDdNn .hl nn) s = .next { s with main := { s.main with h := hiByte nn, l := loByte nn } } ∧
    exec (.ldDdNn .sp nn) s = .next { s with sp := nn } ∧ cat (hiByte nn) (loByte nn) = nn

/-- 41_load16_stack.md R186. -/
def Obligations.LdIndexImmediateLoads : Prop :=
  ∀ (nn : Word) (s : State),
    exec (.ldIxNn nn) s = .next { s with ix := nn } ∧ exec (.ldIyNn nn) s = .next { s with iy := nn }

/-- 41_load16_stack.md R180, R184, R187: every PUSH, each byte stored where its address is in range and reported where it is not. With
`STACK_SIZE` = 0xFFFF and SP = 0 this is R180's pseudocode and not R184's corner case (log entry 12). -/
def Obligations.PushStoresHighThenLow : Prop :=
  ∀ s : State,
    (∃ u, exec (.pushQq .bc) s = .next u ∧ Pushed s u (cat s.main.b s.main.c)) ∧
    (∃ u, exec (.pushQq .de) s = .next u ∧ Pushed s u (cat s.main.d s.main.e)) ∧
    (∃ u, exec (.pushQq .hl) s = .next u ∧ Pushed s u (cat s.main.h s.main.l)) ∧
    (∃ u, exec (.pushQq .af) s = .next u ∧ Pushed s u (cat s.main.a s.main.f)) ∧
    (∃ u, exec .pushIx s = .next u ∧ Pushed s u s.ix) ∧
    (∃ u, exec .pushIy s = .next u ∧ Pushed s u s.iy)

/-- 41_load16_stack.md R181, R185, R188: every POP; POP AF writes all of F. With SP = `STACK_SIZE` = 0xFFFF this is R181's pseudocode
and not R185's corner case (log entry 12). -/
def Obligations.PopLoadsLowThenHigh : Prop :=
  ∀ s : State,
    exec (.popQq .bc) s = .next { popped s with main := { s.main with b := popHi s, c := popLo s } } ∧
    exec (.popQq .de) s = .next { popped s with main := { s.main with d := popHi s, e := popLo s } } ∧
    exec (.popQq .hl) s = .next { popped s with main := { s.main with h := popHi s, l := popLo s } } ∧
    exec (.popQq .af) s = .next { popped s with main := { s.main with a := popHi s, f := popLo s } } ∧
    exec .popIx s = .next { popped s with ix := cat (popHi s) (popLo s) } ∧
    exec .popIy s = .next { popped s with iy := cat (popHi s) (popLo s) }

/-- 41_load16_stack.md R185's property: PUSH qq then POP qq of the same pair restores the pair and SP. -/
def Obligations.PushThenPopRestoresThePair : Prop :=
  ∀ (p : PairQQ) (s : State), s.params.valid = true → 2 ≤ s.sp.toNat → s.sp.toNat ≤ s.params.stackSize →
    ∃ u m, exec (.pushQq p) s = .next u ∧ exec (.popQq p) u = .next { s with stack := m }

/-! ### Exchanges -/

/-- 42_exchange.md R200, R201, R202. -/
def Obligations.ExchangesSwapContents : Prop :=
  ∀ s : State,
    exec .exDeHl s = .next { s with main := { s.main with d := s.main.h, e := s.main.l, h := s.main.d, l := s.main.e } } ∧
    exec .exAfAf s = .next { s with
      main := { s.main with a := s.alt.a, f := s.alt.f }
      alt := { s.alt with a := s.main.a, f := s.main.f } } ∧
    exec .exx s = .next { s with
      main := ⟨s.main.a, s.main.f, s.alt.b, s.alt.c, s.alt.d, s.alt.e, s.alt.h, s.alt.l⟩
      alt := ⟨s.alt.a, s.alt.f, s.main.b, s.main.c, s.main.d, s.main.e, s.main.h, s.main.l⟩ }

/-- 42_exchange.md R200, R201, R202: each register exchange executed twice restores everything. -/
def Obligations.ExchangeTwiceRestores : Prop :=
  ∀ (i : Instr) (s : State), i ∈ [Instr.exDeHl, .exAfAf, .exx] → ∃ u, exec i s = .next u ∧ exec i u = .next s

/-- 42_exchange.md R203: the four accesses, the reports in their order, each byte moved only where its address is in range. -/
def Obligations.ExSpHlSwapsWithTheStack : Prop :=
  ∀ s : State, ∃ m,
    exec .exSpHl s = .next
      { withConditions (stackConditions s .read [s.sp, s.sp + 1] ++ stackConditions s .write [s.sp + 1, s.sp]) s with
        main := { s.main with h := popHi s, l := popLo s }
        stack := m
        draws := s.draws + (stackConditions s .read [s.sp, s.sp + 1]).length } ∧
    StackHolds s m s.sp (cat s.main.h s.main.l)

/-! ### Arithmetic -/

/-- 43_arith.md R212: alu(add, a, v) with `FLAG_MODEL` = zilog, flag by flag. -/
def Obligations.ZilogAddResultAndFlags : Prop :=
  ∀ (p : Params) (iff2 : Bool) (a v : Byte), p.valid = true → p.flagModel = .zilog →
    (alu p iff2 .add a v).1.toNat = (a.toNat + v.toNat) % 256 ∧
    (alu p iff2 .add a v).2.getLsbD 7 = (a + v).getLsbD 7 ∧
    (alu p iff2 .add a v).2.getLsbD 6 = decide (a + v = 0) ∧
    (alu p iff2 .add a v).2.getLsbD 5 = false ∧
    (alu p iff2 .add a v).2.getLsbD 4 = decide ((a &&& 0x0F).toNat + (v &&& 0x0F).toNat > 0x0F) ∧
    (alu p iff2 .add a v).2.getLsbD 3 = false ∧
    (alu p iff2 .add a v).2.getLsbD 2 = decide ((a ^^^ (a + v)) &&& (v ^^^ (a + v)) &&& 0x80 ≠ 0) ∧
    (alu p iff2 .add a v).2.getLsbD 1 = false ∧
    (alu p iff2 .add a v).2.getLsbD 0 = decide (a.toNat + v.toNat > 0xFF)

/-- 43_arith.md R213: alu(sub, a, v) with `FLAG_MODEL` = zilog, flag by flag. -/
def Obligations.ZilogSubResultAndFlags : Prop :=
  ∀ (p : Params) (iff2 : Bool) (a v : Byte), p.valid = true → p.flagModel = .zilog →
    ((alu p iff2 .sub a v).1.toNat : Int) = ((a.toNat : Int) - v.toNat) % 256 ∧
    (alu p iff2 .sub a v).2.getLsbD 7 = (a - v).getLsbD 7 ∧
    (alu p iff2 .sub a v).2.getLsbD 6 = decide (a - v = 0) ∧
    (alu p iff2 .sub a v).2.getLsbD 5 = false ∧
    (alu p iff2 .sub a v).2.getLsbD 4 = decide ((a &&& 0x0F).toNat < (v &&& 0x0F).toNat) ∧
    (alu p iff2 .sub a v).2.getLsbD 3 = false ∧
    (alu p iff2 .sub a v).2.getLsbD 2 = decide ((a ^^^ v) &&& (a ^^^ (a - v)) &&& 0x80 ≠ 0) ∧
    (alu p iff2 .sub a v).2.getLsbD 1 = true ∧
    (alu p iff2 .sub a v).2.getLsbD 0 = decide (a.toNat < v.toNat)

/-- 43_arith.md R211: alu with `FLAG_MODEL` = source, flag by flag. -/
def Obligations.SourceResultAndFlags : Prop :=
  ∀ (p : Params) (iff2 : Bool) (op : AluOp) (a v : Byte), p.valid = true → p.flagModel = .source →
    (alu p iff2 op a v).1 = (if op = .add then a + v else a - v) ∧
    (alu p iff2 op a v).2.getLsbD 7 = (alu p iff2 op a v).1.getLsbD 7 ∧
    (alu p iff2 op a v).2.getLsbD 6 = decide ((alu p iff2 op a v).1 = 0) ∧
    (alu p iff2 op a v).2.getLsbD 5 = false ∧
    (alu p iff2 op a v).2.getLsbD 4 = (alu p iff2 op a v).1.getLsbD 4 ∧
    (alu p iff2 op a v).2.getLsbD 3 = false ∧
    (alu p iff2 op a v).2.getLsbD 2 = iff2 ∧
    (alu p iff2 op a v).2.getLsbD 1 = false ∧
    (alu p iff2 op a v).2.getLsbD 0 = false

/-- 43_arith.md section 4, the spec's derived sentence "C reports unsigned carry or borrow and V reports signed overflow" (R220). -/
def Obligations.CarryAndOverflowReportTheExactResult : Prop :=
  ∀ (p : Params) (iff2 : Bool) (a v : Byte), p.valid = true → p.flagModel = .zilog →
    ((alu p iff2 .add a v).2.getLsbD 0 = true ↔ ((alu p iff2 .add a v).1.toNat : Int) ≠ (a.toNat : Int) + v.toNat) ∧
    ((alu p iff2 .add a v).2.getLsbD 2 = true ↔ (alu p iff2 .add a v).1.toInt ≠ a.toInt + v.toInt) ∧
    ((alu p iff2 .sub a v).2.getLsbD 0 = true ↔ ((alu p iff2 .sub a v).1.toNat : Int) ≠ (a.toNat : Int) - v.toNat) ∧
    ((alu p iff2 .sub a v).2.getLsbD 2 = true ↔ (alu p iff2 .sub a v).1.toInt ≠ a.toInt - v.toInt)

/-- 43_arith.md R210, R214, R215, R217, R218: ADD and SUB of a register or an immediate. -/
def Obligations.AddSubRegisterAndImmediate : Prop :=
  ∀ (r : Reg8) (n : Byte) (s : State),
    exec (.addAR r) s = .next (aluDone .add (s.reg8 r) s) ∧ exec (.addAN n) s = .next (aluDone .add n s) ∧
    exec (.subR r) s = .next (aluDone .sub (s.reg8 r) s) ∧ exec (.subN n) s = .next (aluDone .sub n s)

/-- 43_arith.md R216, R219: ADD and SUB of the RAM byte at HL; out of range the operand is a free byte and A and F follow from it. -/
def Obligations.AddSubFromRam : Prop :=
  ∀ (op : AluOp) (s : State),
    ((cat s.main.h s.main.l).toNat < 0x2000 →
      exec (if op = .add then .addAHl else .subHl) s =
        .next (aluDone op (s.byteAt .ram (cat s.main.h s.main.l).toNat) s)) ∧
    (¬ (cat s.main.h s.main.l).toNat < 0x2000 →
      exec (if op = .add then .addAHl else .subHl) s =
        .next (aluDone op (Config.draw s.draws)
          { withConditions [⟨.ram, cat s.main.h s.main.l, .read⟩] s with draws := s.draws + 1 }))

/-- 10_state.md R40, R41: setFlag writes the one flag and no other bit of F. -/
def Obligations.SetFlagWritesOneBit : Prop :=
  ∀ (x : Flag) (b : Bool) (s : State), s.params.valid = true → ∃ f,
    s.setFlag x b = { s with main := { s.main with f := f } } ∧ (s.setFlag x b).flag x = b ∧
    ∀ j, (flagMask s.params x).getLsbD j = false → f.getLsbD j = s.main.f.getLsbD j

/-! ### Control -/

/-- 44_control.md R240: the eight conditions, with flag X at its bit of 10_state.md R40. -/
def Obligations.ConditionsTestTheirFlags : Prop :=
  ∀ s : State, s.params.valid = true →
    s.cond .nz = !s.main.f.getLsbD 6 ∧ s.cond .z = s.main.f.getLsbD 6 ∧
    s.cond .nc = !s.main.f.getLsbD 0 ∧ s.cond .c = s.main.f.getLsbD 0 ∧
    s.cond .po = !s.main.f.getLsbD 2 ∧ s.cond .pe = s.main.f.getLsbD 2 ∧
    s.cond .p = !s.main.f.getLsbD 7 ∧ s.cond .m = s.main.f.getLsbD 7

/-- 44_control.md R241, R242. -/
def Obligations.AbsoluteJumps : Prop :=
  ∀ (cc : Cond) (nn : Word) (s : State),
    exec (.jpNn nn) s = .next { s with pc := nn } ∧
    exec (.jpCcNn cc nn) s = .next { s with pc := if s.cond cc = true then nn else s.pc }

/-- 44_control.md R243, R244, R245: PC, read after the whole instruction, plus the signed displacement modulo 2^16. -/
def Obligations.RelativeJumps : Prop :=
  ∀ (e : Byte) (s : State), ∃ target : Word,
    (target.toNat : Int) = (s.pc.toNat + (if e.toNat < 0x80 then (e.toNat : Int) else (e.toNat : Int) - 256)) % 65536 ∧
    exec (.jrE e) s = .next { s with pc := target } ∧
    exec (.jrNzE e) s = .next { s with pc := if s.cond .nz = true then target else s.pc } ∧
    exec (.jrZE e) s = .next { s with pc := if s.cond .z = true then target else s.pc } ∧
    exec (.jrNcE e) s = .next { s with pc := if s.cond .nc = true then target else s.pc } ∧
    exec (.jrCE e) s = .next { s with pc := if s.cond .c = true then target else s.pc }

/-- 44_control.md R246: CALL pushes PC, which is past its operands, and jumps whatever the stack writes report. The push with
`STACK_SIZE` = 0xFFFF and SP = 0 is R180's (log entry 12). -/
def Obligations.CallPushesTheReturnAddress : Prop :=
  ∀ (nn : Word) (s : State), ∃ u, exec (.callNn nn) s = .next { u with pc := nn } ∧ Pushed s u s.pc

/-- 44_control.md R247, R248. With SP = `STACK_SIZE` = 0xFFFF this is the pseudocode of 41_load16_stack.md R181 and not R247's corner
case (log entry 12). -/
def Obligations.ReturnsPopThePc : Prop :=
  ∀ (cc : Cond) (s : State),
    exec .ret s = .next { popped s with pc := cat (popHi s) (popLo s) } ∧
    (s.cond cc = true → exec (.retCc cc) s = .next { popped s with pc := cat (popHi s) (popLo s) }) ∧
    (s.cond cc = false → exec (.retCc cc) s = .next s)

/-- 44_control.md R247's property: CALL then RET is a no-op on PC, which is past the CALL, and on SP. -/
def Obligations.CallThenReturnComesBack : Prop :=
  ∀ (nn : Word) (s : State), s.params.valid = true → 2 ≤ s.sp.toNat → s.sp.toNat ≤ s.params.stackSize →
    ∃ u m, exec (.callNn nn) s = .next u ∧ exec .ret u = .next { s with stack := m }

/-! ### System -/

/-- 45_system.md R260, R261. -/
def Obligations.InterruptFlipFlopInstructions : Prop :=
  ∀ s : State,
    exec .di s = .next { s with iff1 := false, iff2 := false } ∧ exec .ei s = .next { s with iff1 := true, iff2 := true }

/-- 45_system.md R262: A takes the oracle's byte for the port cat(A, n), a fresh draw; nothing else changes. The byte is the free value
of log entry 4: the statement holds for every value of it. -/
def Obligations.InputLoadsTheOraclesByte : Prop :=
  ∀ (n : Byte) (s : State),
    exec (.inAN n) s = .next { s with
      main := { s.main with a := Config.ioOracle s.draws (cat s.main.a n) }, draws := s.draws + 1 }

/-- 30_encoding.md R121 to R123, 60_exceptions.md R271: the two unrecognized classes complete with their outcome recorded; pc0 is
the address of the first consumed byte. -/
def Obligations.UnrecognizedInstructionsRecordTheirOutcome : Prop :=
  ∀ (op : Byte) (p : Pfx) (op2 : Byte) (s : State),
    exec (.unrecognized op) s = .next { s with
      report := ⟨.unrecognizedOpcode [op] (s.pc - 1), s.report.conditions⟩, sticky := true } ∧
    exec (.unrecognizedPrefixed p op2) s = .next { s with
      report := ⟨.unrecognizedOpcode [p.byte, op2] (s.pc - 2), s.report.conditions⟩, sticky := true }

/-! ### Pure helpers -/

/-- 10_state.md R42: isFlagSet(mask, flag) holds iff every bit of flag is set in mask, that is iff mask & flag = flag; flag(X) is
isFlagSet(F, mask(X)). -/
def Obligations.IsFlagSetTestsEveryBit : Prop :=
  ∀ mask flag : Byte,
    (isFlagSet mask flag = true ↔ ∀ j, flag.getLsbD j = true → mask.getLsbD j = true) ∧
    (isFlagSet mask flag = true ↔ mask &&& flag = flag) ∧
    ∀ (s : State) (x : Flag), s.flag x = isFlagSet s.main.f (flagMask s.params x)
end

