-- ==== Sys2Proof/Laws/Bits.lean ====
section
/-! SUPPORT. The laws of splitting, joining and extending words. -/

namespace Sys2Proof

theorem cat_toNat (h l : Byte) : (cat h l).toNat = h.toNat * 256 + l.toNat := by
  have := h.isLt
  have := l.isLt
  simp only [cat, BitVec.toNat_ofNat]
  omega

theorem hiByte_toNat (v : Word) : (hiByte v).toNat = v.toNat / 256 := by
  have := v.isLt
  simp only [hiByte, BitVec.toNat_ofNat]
  omega

theorem loByte_toNat (v : Word) : (loByte v).toNat = v.toNat % 256 := by
  simp only [loByte, BitVec.toNat_ofNat]

@[simp] theorem cat_hiByte_loByte (v : Word) : cat (hiByte v) (loByte v) = v := by
  apply BitVec.eq_of_toNat_eq
  rw [cat_toNat, hiByte_toNat, loByte_toNat]
  omega

@[simp] theorem hiByte_cat (h l : Byte) : hiByte (cat h l) = h := by
  have := l.isLt
  apply BitVec.eq_of_toNat_eq
  rw [hiByte_toNat, cat_toNat]
  omega

@[simp] theorem loByte_cat (h l : Byte) : loByte (cat h l) = l := by
  have := l.isLt
  apply BitVec.eq_of_toNat_eq
  rw [loByte_toNat, cat_toNat]
  omega

theorem sext16_toNat (e : Byte) : (sext16 e).toNat = if e.toNat < 0x80 then e.toNat else e.toNat + 0xFF00 := by
  have := e.isLt
  simp only [sext16, BitVec.toNat_ofNat]
  split <;> omega

end Sys2Proof
end

