-- ==== Sys2Proof/Laws/Decode.lean ====
section
/-! SUPPORT. What the selecting bytes select: the bytes of the selected instruction begin with them (`Selected.Sound`), and every
byte outside the spec's lists of admitted bytes selects an unrecognized instruction. Facts about one byte are decided over all 256. -/

namespace Sys2Proof

/-! ### The selectors of a second table -/

theorem decodePfx_byte (p : Pfx) : decodePfx p.byte = some p := by cases p <;> rfl

theorem decodePfx_eq_some {op : Byte} {p : Pfx} (h : decodePfx op = some p) : op = p.byte := by
  unfold decodePfx at h
  split at h
  · cases h; assumption
  · split at h
    · cases h; assumption
    · split at h
      · cases h; assumption
      · split at h <;> cases h
        assumption

/-! ### What a selected instruction completes to -/

/-- The selecting bytes bs select an instruction whose encoding is bs and then its operand bytes. -/
inductive Selected.Sound (bs : List Byte) : Selected → Prop
  | op {i : Instr} : i.wf = true → encode i = bs → Sound bs (.op i)
  | opByte {k : Byte → Instr} : (∀ n, (k n).wf = true ∧ encode (k n) = bs ++ [n]) → Sound bs (.opByte k)
  | opWord {k : Word → Instr} : (∀ n, (k n).wf = true ∧ encode (k n) = bs ++ [loByte n, hiByte n]) → Sound bs (.opWord k)

/-- Completing an instruction consumes bytes from the front only. -/
theorem Selected.complete_length {sel : Selected} {bs rest : List Byte} {i : Instr} (h : sel.complete bs = .ok (i, rest)) :
    rest.length ≤ bs.length := by
  unfold Selected.complete at h
  split at h <;> cases h <;> simp
  omega

/-- How many operand bytes a selected instruction waits for. -/
def Selected.operandBytes : Selected → Nat
  | .op _ => 0
  | .opByte _ => 1
  | .opWord _ => 2

/-- Two bytes complete every selected instruction. -/
theorem Selected.complete_total (sel : Selected) (b0 b1 : Byte) (bs : List Byte) :
    ∃ r, sel.complete (b0 :: b1 :: bs) = .ok r := by
  cases sel <;> exact ⟨_, rfl⟩

/-! ### Single bytes -/

/-- No byte matches two lines of the unprefixed table (30_encoding.md R118). -/
theorem templates_disjoint : ∀ op : Byte, (templates.filter fun line => (line op).isSome).length ≤ 1 := by decide

/-- A byte that selects no second table matches no line exactly when R121 lists it. -/
theorem templates_none_iff : ∀ op : Byte, decodePfx op = none →
    ((templates.findSome? fun line => line op).isNone = true ↔ op.toNat ∈ unrecognizedBytes) := by decide

theorem decodePfx_of_unrecognized : ∀ op : Byte, op.toNat ∈ unrecognizedBytes → decodePfx op = none := by decide

theorem selectIndexed_none_iff (x : Index) : ∀ op2 : Byte,
    (selectIndexed x op2).isNone = true ↔ op2.toNat ∉ indexedSecondBytes := by
  cases x <;> decide

/-- The instruction a selection is about is one of the unrecognized classes. -/
def Selected.isUnrecognized : Selected → Bool
  | .op (.unrecognized _) | .op (.unrecognizedPrefixed _ _) => true
  | _ => false

theorem templates_recognized : ∀ op : Byte,
    (templates.findSome? fun line => line op).all (fun sel => !sel.isUnrecognized) = true := by decide

theorem selectIndexed_recognized (x : Index) : ∀ op2 : Byte,
    (selectIndexed x op2).all (fun sel => !sel.isUnrecognized) = true := by
  cases x <;> decide

/-! ### Fields put back give the byte they were read from -/

theorem encode_ldRR_fields : ∀ op : Byte, op &&& 0xC0 = 0x40 →
    (decodeReg8 (fieldT op)).all (fun t => (decodeReg8 (fieldS op)).all fun r => encode (.ldRR t r) == [op]) = true := by decide

theorem encode_ldRN_fields : ∀ op : Byte, op &&& 0xC7 = 0x06 →
    (decodeReg8 (fieldT op)).all (fun t => encode (.ldRN t 0) == [op, 0]) = true := by decide

theorem encode_ldRHl_fields : ∀ op : Byte, op &&& 0xC7 = 0x46 →
    (decodeReg8 (fieldT op)).all (fun t => encode (.ldRHl t) == [op]) = true := by decide

theorem encode_ldHlR_fields : ∀ op : Byte, op &&& 0xF8 = 0x70 →
    (decodeReg8 (fieldS op)).all (fun r => encode (.ldHlR r) == [op]) = true := by decide

theorem encode_ldDdNn_fields : ∀ op : Byte, op &&& 0xCF = 0x01 → encode (.ldDdNn (fieldDD op) 0) = [op, 0, 0] := by decide

theorem encode_pushQq_fields : ∀ op : Byte, op &&& 0xCF = 0xC5 → encode (.pushQq (fieldQQ op)) = [op] := by decide

theorem encode_popQq_fields : ∀ op : Byte, op &&& 0xCF = 0xC1 → encode (.popQq (fieldQQ op)) = [op] := by decide

theorem encode_addAR_fields : ∀ op : Byte, op &&& 0xF8 = 0x80 →
    (decodeReg8 (fieldS op)).all (fun r => encode (.addAR r) == [op]) = true := by decide

theorem encode_subR_fields : ∀ op : Byte, op &&& 0xF8 = 0x90 →
    (decodeReg8 (fieldS op)).all (fun r => encode (.subR r) == [op]) = true := by decide

theorem encode_jpCcNn_fields : ∀ op : Byte, op &&& 0xC7 = 0xC2 → encode (.jpCcNn (fieldC op) 0) = [op, 0, 0] := by decide

theorem encode_retCc_fields : ∀ op : Byte, op &&& 0xC7 = 0xC0 → encode (.retCc (fieldC op)) = [op] := by decide

theorem eq_of_all {α : Type} {o : Option α} {x : α} {f g : α → List Byte} (h : o.all (fun y => f y == g y) = true)
    (hx : o = some x) : f x = g x := by
  subst hx
  exact eq_of_beq h

/-! ### Soundness of the tables -/

theorem exactBytes_sound : ∀ x ∈ exactBytes, Selected.Sound [x.1] x.2 := by
  simp only [exactBytes, List.forall_mem_cons]
  refine ⟨?_, ?_, ?_, ?_, ?_, ?_, ?_, ?_, ?_, ?_, ?_, ?_, ?_, ?_, ?_, ?_, ?_, ?_, ?_, ?_, ?_, ?_, ?_, ?_, ?_, by simp⟩ <;>
    first
    | exact .op rfl rfl
    | exact .opByte fun n => ⟨rfl, rfl⟩
    | exact .opWord fun n => ⟨rfl, rfl⟩

theorem mem_of_lookup {l : List (Byte × Selected)} {a : Byte} {sel : Selected} (h : l.lookup a = some sel) : (a, sel) ∈ l := by
  induction l with
  | nil => cases h
  | cons x l ih =>
    obtain ⟨k, v⟩ := x
    simp only [List.lookup] at h
    split at h
    · next heq =>
      cases h
      simp [eq_of_beq heq]
    · exact List.mem_cons_of_mem _ (ih h)

theorem of_ite_eq_some {α : Type} {c : Prop} [Decidable c] {o : Option α} {x : α} (h : (if c then o else none) = some x) :
    c ∧ o = some x := by
  split at h
  · exact ⟨‹_›, h⟩
  · cases h

theorem templates_sound : ∀ line ∈ templates, ∀ op sel, line op = some sel → Selected.Sound [op] sel := by
  simp only [templates, List.forall_mem_cons]
  refine ⟨?_, ?_, ?_, ?_, ?_, ?_, ?_, ?_, ?_, ?_, ?_, ?_, by simp⟩ <;> intro op sel h
  case refine_8 => exact exactBytes_sound _ (mem_of_lookup h)
  all_goals obtain ⟨hm, h⟩ := of_ite_eq_some h
  case refine_1 =>
    obtain ⟨t, ht, h⟩ := Option.bind_eq_some_iff.1 h
    obtain ⟨r, hr, h⟩ := Option.bind_eq_some_iff.1 h
    cases h
    have he := encode_ldRR_fields op hm
    rw [ht] at he
    exact .op rfl (eq_of_all he hr)
  case refine_2 =>
    obtain ⟨t, ht, rfl⟩ := Option.map_eq_some_iff.1 h
    have he := eq_of_all (encode_ldRN_fields op hm) ht
    exact .opByte fun n => ⟨rfl, congrArg (fun b => [b, n]) (List.cons.inj he).1⟩
  case refine_3 =>
    obtain ⟨t, ht, rfl⟩ := Option.map_eq_some_iff.1 h
    exact .op rfl (eq_of_all (encode_ldRHl_fields op hm) ht)
  case refine_4 =>
    obtain ⟨r, hr, rfl⟩ := Option.map_eq_some_iff.1 h
    exact .op rfl (eq_of_all (encode_ldHlR_fields op hm) hr)
  case refine_5 =>
    cases h
    exact .opWord fun n => ⟨rfl, congrArg (fun b => [b, loByte n, hiByte n]) (List.cons.inj (encode_ldDdNn_fields op hm)).1⟩
  case refine_6 =>
    cases h
    exact .op rfl (encode_pushQq_fields op hm)
  case refine_7 =>
    cases h
    exact .op rfl (encode_popQq_fields op hm)
  case refine_9 =>
    obtain ⟨r, hr, rfl⟩ := Option.map_eq_some_iff.1 h
    exact .op rfl (eq_of_all (encode_addAR_fields op hm) hr)
  case refine_10 =>
    obtain ⟨r, hr, rfl⟩ := Option.map_eq_some_iff.1 h
    exact .op rfl (eq_of_all (encode_subR_fields op hm) hr)
  case refine_11 =>
    cases h
    exact .opWord fun n => ⟨rfl, congrArg (fun b => [b, loByte n, hiByte n]) (List.cons.inj (encode_jpCcNn_fields op hm)).1⟩
  case refine_12 =>
    cases h
    exact .op rfl (encode_retCc_fields op hm)

/-- What an unprefixed byte selects. -/
theorem selectOp_sound {op : Byte} (hp : decodePfx op = none) : Selected.Sound [op] (selectOp op) := by
  unfold selectOp
  cases h : templates.findSome? (fun line => line op) with
  | none =>
    refine .op ?_ rfl
    have := (templates_none_iff op hp).1 (by rw [h]; rfl)
    simpa [Instr.wf] using this
  | some sel =>
    obtain ⟨line, hl, hs⟩ := List.exists_of_findSome?_eq_some h
    exact templates_sound line hl op sel hs

/-- The byte that selects an index register's table (30_encoding.md R120). -/
def Index.pfx : Index → Pfx
  | .ix => .dd
  | .iy => .fd

theorem encode_ldRIndexD_fields (x : Index) : ∀ op2 : Byte, op2 &&& 0xC7 = 0x46 →
    (decodeReg8 (fieldT op2)).all (fun t => encode (ldRIndexD x t 0) == [x.pfx.byte, op2, 0]) = true := by
  cases x <;> decide

theorem encode_ldIndexDR_fields (x : Index) : ∀ op2 : Byte, op2 &&& 0xF8 = 0x70 →
    (decodeReg8 (fieldS op2)).all (fun r => encode (ldIndexDR x r 0) == [x.pfx.byte, op2, 0]) = true := by
  cases x <;> decide

theorem selectIndexed_sound {x : Index} {op2 : Byte} {sel : Selected} (h : selectIndexed x op2 = some sel) :
    Selected.Sound [x.pfx.byte, op2] sel := by
  unfold selectIndexed at h
  split at h
  · next h0 =>
    subst h0
    cases h
    cases x <;> exact .opWord fun n => ⟨rfl, rfl⟩
  split at h
  · next hm =>
    obtain ⟨t, ht, rfl⟩ := Option.map_eq_some_iff.1 h
    have he := eq_of_all (encode_ldRIndexD_fields x op2 hm) ht
    cases x <;> exact .opByte fun n => ⟨rfl, congrArg (fun b => [_, b, n]) (List.cons.inj (List.cons.inj he).2).1⟩
  split at h
  · next hm =>
    obtain ⟨r, hr, rfl⟩ := Option.map_eq_some_iff.1 h
    have he := eq_of_all (encode_ldIndexDR_fields x op2 hm) hr
    cases x <;> exact .opByte fun n => ⟨rfl, congrArg (fun b => [_, b, n]) (List.cons.inj (List.cons.inj he).2).1⟩
  split at h
  · next h0 =>
    subst h0
    cases h
    cases x <;> exact .op rfl rfl
  split at h
  · next h0 =>
    subst h0
    cases h
    cases x <;> exact .op rfl rfl
  cases h

/-- What a second byte selects. -/
theorem selectPrefixed_sound (p : Pfx) (op2 : Byte) : Selected.Sound [p.byte, op2] (selectPrefixed p op2) := by
  cases p with
  | cb => exact .op rfl rfl
  | ed => exact .op rfl rfl
  | dd =>
    show Selected.Sound _ ((selectIndexed .ix op2).getD _)
    cases h : selectIndexed .ix op2 with
    | none => exact .op (by simpa [Instr.wf] using (selectIndexed_none_iff .ix op2).1 (by rw [h]; rfl)) rfl
    | some sel => exact selectIndexed_sound h
  | fd =>
    show Selected.Sound _ ((selectIndexed .iy op2).getD _)
    cases h : selectIndexed .iy op2 with
    | none => exact .op (by simpa [Instr.wf] using (selectIndexed_none_iff .iy op2).1 (by rw [h]; rfl)) rfl
    | some sel => exact selectIndexed_sound h

theorem encode_length (i : Instr) : (encode i).length = i.length := by cases i <;> rfl

/-- A sound selection, completed, has as many bytes as were selected and waited for. -/
theorem Selected.Sound.length {bs tl rest : List Byte} {sel : Selected} {i : Instr} (hs : sel.Sound bs)
    (h : sel.complete tl = .ok (i, rest)) : i.length = bs.length + sel.operandBytes := by
  rw [← encode_length]
  unfold Selected.complete at h
  split at h <;> cases h
  · obtain ⟨-, he⟩ := hs
    simp [he, Selected.operandBytes]
  · cases hs
    next hk => simp [(hk _).2, Selected.operandBytes]
  · cases hs
    next hk => simp [(hk _).2, Selected.operandBytes]

/-- A sound selection, completed, gives a well-formed instruction whose bytes are the ones consumed. -/
theorem Selected.Sound.complete {bs tl rest : List Byte} {sel : Selected} {i : Instr} (hs : sel.Sound bs)
    (h : sel.complete tl = .ok (i, rest)) : i.wf = true ∧ encode i ++ rest = bs ++ tl := by
  unfold Selected.complete at h
  split at h <;> cases h
  · obtain ⟨h1, h2⟩ := hs
    exact ⟨h1, by rw [h2]⟩
  · cases hs
    next hk => exact ⟨(hk _).1, by simp [(hk _).2]⟩
  · cases hs
    next hk => exact ⟨(hk _).1, by simp [(hk _).2]⟩

end Sys2Proof
end

