-- ==== Sys2Proof/Laws/Memory.lean ====
section
/-! SUPPORT. The laws of a space as a list of cells: reading after writing, and the canonical form every operation keeps. -/

namespace Sys2Proof.Machine

@[simp] theorem Memory.get?_nil (a : Nat) : Memory.get? [] a = none := rfl

theorem Memory.get?_cons (k : Nat) (u : Byte) (m : Memory) (a : Nat) :
    Memory.get? ((k, u) :: m) a = if k = a then some u else m.get? a := rfl

theorem Memory.get?_eq_none_of_lt (m : Memory) (a : Nat) (h : ∀ x ∈ m, a < x.1) : m.get? a = none := by
  induction m with
  | nil => rfl
  | cons x m ih =>
    have hx := h x (by simp)
    rw [Memory.get?_cons, if_neg (by omega)]
    exact ih fun y hy => h y (by simp [hy])

@[simp] theorem Memory.get?_set_same (m : Memory) (a : Nat) (v : Byte) : (m.set a v).get? a = some v := by
  induction m with
  | nil => simp [Memory.set, Memory.get?]
  | cons x m ih =>
    obtain ⟨k, u⟩ := x
    unfold Memory.set
    split
    · simp [Memory.get?]
    · split
      · simp [Memory.get?]
      · rw [Memory.get?_cons, if_neg (by omega), ih]

theorem Memory.get?_set_ne (m : Memory) (a b : Nat) (v : Byte) (h : b ≠ a) : (m.set a v).get? b = m.get? b := by
  induction m with
  | nil => simp [Memory.set, Memory.get?, Ne.symm h]
  | cons x m ih =>
    obtain ⟨k, u⟩ := x
    unfold Memory.set
    split
    · simp [Memory.get?, Ne.symm h]
    · split
      · subst_vars
        simp [Memory.get?, Ne.symm h]
      · rw [Memory.get?_cons, Memory.get?_cons, ih]

/-- What a write does to every read. -/
theorem Memory.get?_set (m : Memory) (a b : Nat) (v : Byte) :
    (m.set a v).get? b = if b = a then some v else m.get? b := by
  split
  · next h => rw [h, Memory.get?_set_same]
  · next h => exact Memory.get?_set_ne m a b v h

theorem Memory.mem_set {m : Memory} {a : Nat} {v : Byte} {x : Host.Cell} (h : x ∈ m.set a v) : x = (a, v) ∨ x ∈ m := by
  induction m with
  | nil => simpa [Memory.set] using h
  | cons y m ih =>
    obtain ⟨k, u⟩ := y
    unfold Memory.set at h
    split at h
    · simpa using h
    · split at h
      · rcases List.mem_cons.1 h with h | h
        · exact .inl h
        · exact .inr (List.mem_cons_of_mem _ h)
      · rcases List.mem_cons.1 h with h | h
        · exact .inr (by simp [h])
        · rcases ih h with h | h
          · exact .inl h
          · exact .inr (List.mem_cons_of_mem _ h)

/-- A write keeps the canonical form. -/
theorem Memory.set_wf {m : Memory} (h : m.wf) (a : Nat) (v : Byte) : (m.set a v).wf := by
  induction m with
  | nil => simp [Memory.set]
  | cons y m ih =>
    obtain ⟨k, u⟩ := y
    have hy := List.pairwise_cons.1 h
    unfold Memory.set
    split
    · next hlt =>
      refine List.pairwise_cons.2 ⟨fun x hx => ?_, h⟩
      rcases List.mem_cons.1 hx with rfl | hx
      · exact hlt
      · exact lt_trans hlt (hy.1 x hx)
    · split
      · next heq => exact List.pairwise_cons.2 ⟨fun x hx => heq ▸ hy.1 x hx, hy.2⟩
      · next hge hne =>
        refine List.pairwise_cons.2 ⟨fun x hx => ?_, ih hy.2⟩
        rcases Memory.mem_set hx with rfl | hx
        · show k < a
          omega
        · exact hy.1 x hx

theorem Memory.set_below {m : Memory} {n : Nat} (h : m.below n) {a : Nat} (ha : a < n) (v : Byte) : (m.set a v).below n := by
  intro x hx
  rcases Memory.mem_set hx with rfl | hx
  · exact ha
  · exact h x hx

theorem Memory.mem_ofBytes {bs : List Byte} {a : Nat} {x : Host.Cell} (h : x ∈ Memory.ofBytes a bs) :
    a ≤ x.1 ∧ x.1 < a + bs.length := by
  induction bs generalizing a with
  | nil => simp [Memory.ofBytes] at h
  | cons b bs ih =>
    rcases List.mem_cons.1 h with rfl | h
    · simp
    · have := ih h
      simp only [List.length_cons]
      omega

/-- Loading bytes gives the canonical form. -/
theorem Memory.ofBytes_wf (a : Nat) (bs : List Byte) : (Memory.ofBytes a bs).wf := by
  induction bs generalizing a with
  | nil => simp [Memory.ofBytes]
  | cons b bs ih =>
    refine List.pairwise_cons.2 ⟨fun x hx => ?_, ih (a + 1)⟩
    have := Memory.mem_ofBytes hx
    show a < x.1
    omega

/-- What loaded bytes read as. -/
theorem Memory.get?_ofBytes (a : Nat) (bs : List Byte) (b : Nat) :
    (Memory.ofBytes a bs).get? b = if a ≤ b then bs[b - a]? else none := by
  induction bs generalizing a with
  | nil => simp [Memory.ofBytes]
  | cons v bs ih =>
    rw [Memory.ofBytes, Memory.get?_cons, ih]
    by_cases h : a = b
    · simp [h]
    · by_cases h' : a ≤ b
      · rw [if_neg h, if_pos (by omega), if_pos h', show b - a = (b - (a + 1)) + 1 by omega, List.getElem?_cons_succ]
      · simp [h, h', show ¬ a + 1 ≤ b by omega]

end Sys2Proof.Machine
end

