-- ==== Sys2Proof/Laws/State.lean ====
section
/-! SUPPORT. One lemma per field per update of State, so that no proof unfolds a record update. The updates that write the primary
set are first rewritten to `setMain`. -/

namespace Sys2Proof.Machine

/-! ### Updates that are `setMain`, `setSp` or a fixed field -/

@[simp] theorem State.setReg8_eq (s : State) (r : Reg8) (v : Byte) : s.setReg8 r v = s.setMain (s.main.set r v) := rfl
@[simp] theorem State.setBc_eq (s : State) (v : Word) : s.setBc v = s.setMain { s.main with b := hiByte v, c := loByte v } := rfl
@[simp] theorem State.setDe_eq (s : State) (v : Word) : s.setDe v = s.setMain { s.main with d := hiByte v, e := loByte v } := rfl
@[simp] theorem State.setHl_eq (s : State) (v : Word) : s.setHl v = s.setMain { s.main with h := hiByte v, l := loByte v } := rfl
@[simp] theorem State.setAf_eq (s : State) (v : Word) : s.setAf v = s.setMain { s.main with a := hiByte v, f := loByte v } := rfl
@[simp] theorem State.setF_eq (s : State) (v : Byte) : s.setF v = s.setMain { s.main with f := v } := rfl
@[simp] theorem State.setPairDD_bc (s : State) (v : Word) : s.setPairDD .bc v = s.setBc v := rfl
@[simp] theorem State.setPairDD_de (s : State) (v : Word) : s.setPairDD .de v = s.setDe v := rfl
@[simp] theorem State.setPairDD_hl (s : State) (v : Word) : s.setPairDD .hl v = s.setHl v := rfl
@[simp] theorem State.setPairDD_sp (s : State) (v : Word) : s.setPairDD .sp v = s.setSp v := rfl
@[simp] theorem State.setPairQQ_bc (s : State) (v : Word) : s.setPairQQ .bc v = s.setBc v := rfl
@[simp] theorem State.setPairQQ_de (s : State) (v : Word) : s.setPairQQ .de v = s.setDe v := rfl
@[simp] theorem State.setPairQQ_hl (s : State) (v : Word) : s.setPairQQ .hl v = s.setHl v := rfl
@[simp] theorem State.setPairQQ_af (s : State) (v : Word) : s.setPairQQ .af v = s.setAf v := rfl
@[simp] theorem decSp_eq (s : State) : decSp s = s.setSp (s.sp - 1) := rfl
@[simp] theorem incSp_eq (s : State) : incSp s = s.setSp (s.sp + 1) := rfl

/-! ### State.setMain -/

@[simp] theorem State.setMain_main (s : State) (k : Bank) : (s.setMain k).main = k := rfl
@[simp] theorem State.setMain_alt (s : State) (k : Bank) : (s.setMain k).alt = s.alt := rfl
@[simp] theorem State.setMain_ix (s : State) (k : Bank) : (s.setMain k).ix = s.ix := rfl
@[simp] theorem State.setMain_iy (s : State) (k : Bank) : (s.setMain k).iy = s.iy := rfl
@[simp] theorem State.setMain_sp (s : State) (k : Bank) : (s.setMain k).sp = s.sp := rfl
@[simp] theorem State.setMain_pc (s : State) (k : Bank) : (s.setMain k).pc = s.pc := rfl
@[simp] theorem State.setMain_regI (s : State) (k : Bank) : (s.setMain k).regI = s.regI := rfl
@[simp] theorem State.setMain_regR (s : State) (k : Bank) : (s.setMain k).regR = s.regR := rfl
@[simp] theorem State.setMain_iff1 (s : State) (k : Bank) : (s.setMain k).iff1 = s.iff1 := rfl
@[simp] theorem State.setMain_iff2 (s : State) (k : Bank) : (s.setMain k).iff2 = s.iff2 := rfl
@[simp] theorem State.setMain_code (s : State) (k : Bank) : (s.setMain k).code = s.code := rfl
@[simp] theorem State.setMain_ram (s : State) (k : Bank) : (s.setMain k).ram = s.ram := rfl
@[simp] theorem State.setMain_vram (s : State) (k : Bank) : (s.setMain k).vram = s.vram := rfl
@[simp] theorem State.setMain_stack (s : State) (k : Bank) : (s.setMain k).stack = s.stack := rfl
@[simp] theorem State.setMain_params (s : State) (k : Bank) : (s.setMain k).params = s.params := rfl
@[simp] theorem State.setMain_report (s : State) (k : Bank) : (s.setMain k).report = s.report := rfl
@[simp] theorem State.setMain_sticky (s : State) (k : Bank) : (s.setMain k).sticky = s.sticky := rfl
@[simp] theorem State.setMain_draws (s : State) (k : Bank) : (s.setMain k).draws = s.draws := rfl

/-! ### State.setSp -/

@[simp] theorem State.setSp_main (s : State) (v : Word) : (s.setSp v).main = s.main := rfl
@[simp] theorem State.setSp_alt (s : State) (v : Word) : (s.setSp v).alt = s.alt := rfl
@[simp] theorem State.setSp_ix (s : State) (v : Word) : (s.setSp v).ix = s.ix := rfl
@[simp] theorem State.setSp_iy (s : State) (v : Word) : (s.setSp v).iy = s.iy := rfl
@[simp] theorem State.setSp_sp (s : State) (v : Word) : (s.setSp v).sp = v := rfl
@[simp] theorem State.setSp_pc (s : State) (v : Word) : (s.setSp v).pc = s.pc := rfl
@[simp] theorem State.setSp_regI (s : State) (v : Word) : (s.setSp v).regI = s.regI := rfl
@[simp] theorem State.setSp_regR (s : State) (v : Word) : (s.setSp v).regR = s.regR := rfl
@[simp] theorem State.setSp_iff1 (s : State) (v : Word) : (s.setSp v).iff1 = s.iff1 := rfl
@[simp] theorem State.setSp_iff2 (s : State) (v : Word) : (s.setSp v).iff2 = s.iff2 := rfl
@[simp] theorem State.setSp_code (s : State) (v : Word) : (s.setSp v).code = s.code := rfl
@[simp] theorem State.setSp_ram (s : State) (v : Word) : (s.setSp v).ram = s.ram := rfl
@[simp] theorem State.setSp_vram (s : State) (v : Word) : (s.setSp v).vram = s.vram := rfl
@[simp] theorem State.setSp_stack (s : State) (v : Word) : (s.setSp v).stack = s.stack := rfl
@[simp] theorem State.setSp_params (s : State) (v : Word) : (s.setSp v).params = s.params := rfl
@[simp] theorem State.setSp_report (s : State) (v : Word) : (s.setSp v).report = s.report := rfl
@[simp] theorem State.setSp_sticky (s : State) (v : Word) : (s.setSp v).sticky = s.sticky := rfl
@[simp] theorem State.setSp_draws (s : State) (v : Word) : (s.setSp v).draws = s.draws := rfl

/-! ### State.setPc -/

@[simp] theorem State.setPc_main (s : State) (v : Word) : (s.setPc v).main = s.main := rfl
@[simp] theorem State.setPc_alt (s : State) (v : Word) : (s.setPc v).alt = s.alt := rfl
@[simp] theorem State.setPc_ix (s : State) (v : Word) : (s.setPc v).ix = s.ix := rfl
@[simp] theorem State.setPc_iy (s : State) (v : Word) : (s.setPc v).iy = s.iy := rfl
@[simp] theorem State.setPc_sp (s : State) (v : Word) : (s.setPc v).sp = s.sp := rfl
@[simp] theorem State.setPc_pc (s : State) (v : Word) : (s.setPc v).pc = v := rfl
@[simp] theorem State.setPc_regI (s : State) (v : Word) : (s.setPc v).regI = s.regI := rfl
@[simp] theorem State.setPc_regR (s : State) (v : Word) : (s.setPc v).regR = s.regR := rfl
@[simp] theorem State.setPc_iff1 (s : State) (v : Word) : (s.setPc v).iff1 = s.iff1 := rfl
@[simp] theorem State.setPc_iff2 (s : State) (v : Word) : (s.setPc v).iff2 = s.iff2 := rfl
@[simp] theorem State.setPc_code (s : State) (v : Word) : (s.setPc v).code = s.code := rfl
@[simp] theorem State.setPc_ram (s : State) (v : Word) : (s.setPc v).ram = s.ram := rfl
@[simp] theorem State.setPc_vram (s : State) (v : Word) : (s.setPc v).vram = s.vram := rfl
@[simp] theorem State.setPc_stack (s : State) (v : Word) : (s.setPc v).stack = s.stack := rfl
@[simp] theorem State.setPc_params (s : State) (v : Word) : (s.setPc v).params = s.params := rfl
@[simp] theorem State.setPc_report (s : State) (v : Word) : (s.setPc v).report = s.report := rfl
@[simp] theorem State.setPc_sticky (s : State) (v : Word) : (s.setPc v).sticky = s.sticky := rfl
@[simp] theorem State.setPc_draws (s : State) (v : Word) : (s.setPc v).draws = s.draws := rfl

/-! ### reportOutOfRange -/

@[simp] theorem reportOutOfRange_main (s : State) (sp : Space) (a : Word) (k : AccessKind) : (reportOutOfRange sp a k s).main = s.main := rfl
@[simp] theorem reportOutOfRange_alt (s : State) (sp : Space) (a : Word) (k : AccessKind) : (reportOutOfRange sp a k s).alt = s.alt := rfl
@[simp] theorem reportOutOfRange_ix (s : State) (sp : Space) (a : Word) (k : AccessKind) : (reportOutOfRange sp a k s).ix = s.ix := rfl
@[simp] theorem reportOutOfRange_iy (s : State) (sp : Space) (a : Word) (k : AccessKind) : (reportOutOfRange sp a k s).iy = s.iy := rfl
@[simp] theorem reportOutOfRange_sp (s : State) (sp : Space) (a : Word) (k : AccessKind) : (reportOutOfRange sp a k s).sp = s.sp := rfl
@[simp] theorem reportOutOfRange_pc (s : State) (sp : Space) (a : Word) (k : AccessKind) : (reportOutOfRange sp a k s).pc = s.pc := rfl
@[simp] theorem reportOutOfRange_regI (s : State) (sp : Space) (a : Word) (k : AccessKind) : (reportOutOfRange sp a k s).regI = s.regI := rfl
@[simp] theorem reportOutOfRange_regR (s : State) (sp : Space) (a : Word) (k : AccessKind) : (reportOutOfRange sp a k s).regR = s.regR := rfl
@[simp] theorem reportOutOfRange_iff1 (s : State) (sp : Space) (a : Word) (k : AccessKind) : (reportOutOfRange sp a k s).iff1 = s.iff1 := rfl
@[simp] theorem reportOutOfRange_iff2 (s : State) (sp : Space) (a : Word) (k : AccessKind) : (reportOutOfRange sp a k s).iff2 = s.iff2 := rfl
@[simp] theorem reportOutOfRange_code (s : State) (sp : Space) (a : Word) (k : AccessKind) : (reportOutOfRange sp a k s).code = s.code := rfl
@[simp] theorem reportOutOfRange_ram (s : State) (sp : Space) (a : Word) (k : AccessKind) : (reportOutOfRange sp a k s).ram = s.ram := rfl
@[simp] theorem reportOutOfRange_vram (s : State) (sp : Space) (a : Word) (k : AccessKind) : (reportOutOfRange sp a k s).vram = s.vram := rfl
@[simp] theorem reportOutOfRange_stack (s : State) (sp : Space) (a : Word) (k : AccessKind) : (reportOutOfRange sp a k s).stack = s.stack := rfl
@[simp] theorem reportOutOfRange_params (s : State) (sp : Space) (a : Word) (k : AccessKind) : (reportOutOfRange sp a k s).params = s.params := rfl
@[simp] theorem reportOutOfRange_report (s : State) (sp : Space) (a : Word) (k : AccessKind) : (reportOutOfRange sp a k s).report = ⟨s.report.kind, s.report.conditions ++ [⟨sp, a, k⟩]⟩ := rfl
@[simp] theorem reportOutOfRange_sticky (s : State) (sp : Space) (a : Word) (k : AccessKind) : (reportOutOfRange sp a k s).sticky = true := rfl
@[simp] theorem reportOutOfRange_draws (s : State) (sp : Space) (a : Word) (k : AccessKind) : (reportOutOfRange sp a k s).draws = s.draws := rfl

/-! ### raiseUnrecognized -/

@[simp] theorem raiseUnrecognized_main (s : State) (bs : List Byte) : (raiseUnrecognized bs s).main = s.main := rfl
@[simp] theorem raiseUnrecognized_alt (s : State) (bs : List Byte) : (raiseUnrecognized bs s).alt = s.alt := rfl
@[simp] theorem raiseUnrecognized_ix (s : State) (bs : List Byte) : (raiseUnrecognized bs s).ix = s.ix := rfl
@[simp] theorem raiseUnrecognized_iy (s : State) (bs : List Byte) : (raiseUnrecognized bs s).iy = s.iy := rfl
@[simp] theorem raiseUnrecognized_sp (s : State) (bs : List Byte) : (raiseUnrecognized bs s).sp = s.sp := rfl
@[simp] theorem raiseUnrecognized_pc (s : State) (bs : List Byte) : (raiseUnrecognized bs s).pc = s.pc := rfl
@[simp] theorem raiseUnrecognized_regI (s : State) (bs : List Byte) : (raiseUnrecognized bs s).regI = s.regI := rfl
@[simp] theorem raiseUnrecognized_regR (s : State) (bs : List Byte) : (raiseUnrecognized bs s).regR = s.regR := rfl
@[simp] theorem raiseUnrecognized_iff1 (s : State) (bs : List Byte) : (raiseUnrecognized bs s).iff1 = s.iff1 := rfl
@[simp] theorem raiseUnrecognized_iff2 (s : State) (bs : List Byte) : (raiseUnrecognized bs s).iff2 = s.iff2 := rfl
@[simp] theorem raiseUnrecognized_code (s : State) (bs : List Byte) : (raiseUnrecognized bs s).code = s.code := rfl
@[simp] theorem raiseUnrecognized_ram (s : State) (bs : List Byte) : (raiseUnrecognized bs s).ram = s.ram := rfl
@[simp] theorem raiseUnrecognized_vram (s : State) (bs : List Byte) : (raiseUnrecognized bs s).vram = s.vram := rfl
@[simp] theorem raiseUnrecognized_stack (s : State) (bs : List Byte) : (raiseUnrecognized bs s).stack = s.stack := rfl
@[simp] theorem raiseUnrecognized_params (s : State) (bs : List Byte) : (raiseUnrecognized bs s).params = s.params := rfl
@[simp] theorem raiseUnrecognized_report (s : State) (bs : List Byte) : (raiseUnrecognized bs s).report = ⟨.unrecognizedOpcode bs (s.pc - BitVec.ofNat 16 bs.length), s.report.conditions⟩ := rfl
@[simp] theorem raiseUnrecognized_sticky (s : State) (bs : List Byte) : (raiseUnrecognized bs s).sticky = true := rfl
@[simp] theorem raiseUnrecognized_draws (s : State) (bs : List Byte) : (raiseUnrecognized bs s).draws = s.draws := rfl

/-! ### beginStep -/

@[simp] theorem beginStep_main (s : State) : (beginStep s).main = s.main := rfl
@[simp] theorem beginStep_alt (s : State) : (beginStep s).alt = s.alt := rfl
@[simp] theorem beginStep_ix (s : State) : (beginStep s).ix = s.ix := rfl
@[simp] theorem beginStep_iy (s : State) : (beginStep s).iy = s.iy := rfl
@[simp] theorem beginStep_sp (s : State) : (beginStep s).sp = s.sp := rfl
@[simp] theorem beginStep_pc (s : State) : (beginStep s).pc = s.pc := rfl
@[simp] theorem beginStep_regI (s : State) : (beginStep s).regI = s.regI := rfl
@[simp] theorem beginStep_regR (s : State) : (beginStep s).regR = s.regR := rfl
@[simp] theorem beginStep_iff1 (s : State) : (beginStep s).iff1 = s.iff1 := rfl
@[simp] theorem beginStep_iff2 (s : State) : (beginStep s).iff2 = s.iff2 := rfl
@[simp] theorem beginStep_code (s : State) : (beginStep s).code = s.code := rfl
@[simp] theorem beginStep_ram (s : State) : (beginStep s).ram = s.ram := rfl
@[simp] theorem beginStep_vram (s : State) : (beginStep s).vram = s.vram := rfl
@[simp] theorem beginStep_stack (s : State) : (beginStep s).stack = s.stack := rfl
@[simp] theorem beginStep_params (s : State) : (beginStep s).params = s.params := rfl
@[simp] theorem beginStep_report (s : State) : (beginStep s).report = Report.clear := rfl
@[simp] theorem beginStep_sticky (s : State) : (beginStep s).sticky = s.sticky := rfl
@[simp] theorem beginStep_draws (s : State) : (beginStep s).draws = s.draws := rfl

/-! ### drawByte -/

@[simp] theorem drawByte_main (s : State) : (drawByte s).2.main = s.main := rfl
@[simp] theorem drawByte_alt (s : State) : (drawByte s).2.alt = s.alt := rfl
@[simp] theorem drawByte_ix (s : State) : (drawByte s).2.ix = s.ix := rfl
@[simp] theorem drawByte_iy (s : State) : (drawByte s).2.iy = s.iy := rfl
@[simp] theorem drawByte_sp (s : State) : (drawByte s).2.sp = s.sp := rfl
@[simp] theorem drawByte_pc (s : State) : (drawByte s).2.pc = s.pc := rfl
@[simp] theorem drawByte_regI (s : State) : (drawByte s).2.regI = s.regI := rfl
@[simp] theorem drawByte_regR (s : State) : (drawByte s).2.regR = s.regR := rfl
@[simp] theorem drawByte_iff1 (s : State) : (drawByte s).2.iff1 = s.iff1 := rfl
@[simp] theorem drawByte_iff2 (s : State) : (drawByte s).2.iff2 = s.iff2 := rfl
@[simp] theorem drawByte_code (s : State) : (drawByte s).2.code = s.code := rfl
@[simp] theorem drawByte_ram (s : State) : (drawByte s).2.ram = s.ram := rfl
@[simp] theorem drawByte_vram (s : State) : (drawByte s).2.vram = s.vram := rfl
@[simp] theorem drawByte_stack (s : State) : (drawByte s).2.stack = s.stack := rfl
@[simp] theorem drawByte_params (s : State) : (drawByte s).2.params = s.params := rfl
@[simp] theorem drawByte_report (s : State) : (drawByte s).2.report = s.report := rfl
@[simp] theorem drawByte_sticky (s : State) : (drawByte s).2.sticky = s.sticky := rfl
@[simp] theorem drawByte_draws (s : State) : (drawByte s).2.draws = s.draws + 1 := rfl

/-! ### State.setIndex_ix -/

@[simp] theorem State.setIndex_ix_main (s : State) (v : Word) : (s.setIndex .ix v).main = s.main := rfl
@[simp] theorem State.setIndex_ix_alt (s : State) (v : Word) : (s.setIndex .ix v).alt = s.alt := rfl
@[simp] theorem State.setIndex_ix_ix (s : State) (v : Word) : (s.setIndex .ix v).ix = v := rfl
@[simp] theorem State.setIndex_ix_iy (s : State) (v : Word) : (s.setIndex .ix v).iy = s.iy := rfl
@[simp] theorem State.setIndex_ix_sp (s : State) (v : Word) : (s.setIndex .ix v).sp = s.sp := rfl
@[simp] theorem State.setIndex_ix_pc (s : State) (v : Word) : (s.setIndex .ix v).pc = s.pc := rfl
@[simp] theorem State.setIndex_ix_regI (s : State) (v : Word) : (s.setIndex .ix v).regI = s.regI := rfl
@[simp] theorem State.setIndex_ix_regR (s : State) (v : Word) : (s.setIndex .ix v).regR = s.regR := rfl
@[simp] theorem State.setIndex_ix_iff1 (s : State) (v : Word) : (s.setIndex .ix v).iff1 = s.iff1 := rfl
@[simp] theorem State.setIndex_ix_iff2 (s : State) (v : Word) : (s.setIndex .ix v).iff2 = s.iff2 := rfl
@[simp] theorem State.setIndex_ix_code (s : State) (v : Word) : (s.setIndex .ix v).code = s.code := rfl
@[simp] theorem State.setIndex_ix_ram (s : State) (v : Word) : (s.setIndex .ix v).ram = s.ram := rfl
@[simp] theorem State.setIndex_ix_vram (s : State) (v : Word) : (s.setIndex .ix v).vram = s.vram := rfl
@[simp] theorem State.setIndex_ix_stack (s : State) (v : Word) : (s.setIndex .ix v).stack = s.stack := rfl
@[simp] theorem State.setIndex_ix_params (s : State) (v : Word) : (s.setIndex .ix v).params = s.params := rfl
@[simp] theorem State.setIndex_ix_report (s : State) (v : Word) : (s.setIndex .ix v).report = s.report := rfl
@[simp] theorem State.setIndex_ix_sticky (s : State) (v : Word) : (s.setIndex .ix v).sticky = s.sticky := rfl
@[simp] theorem State.setIndex_ix_draws (s : State) (v : Word) : (s.setIndex .ix v).draws = s.draws := rfl

/-! ### State.setIndex_iy -/

@[simp] theorem State.setIndex_iy_main (s : State) (v : Word) : (s.setIndex .iy v).main = s.main := rfl
@[simp] theorem State.setIndex_iy_alt (s : State) (v : Word) : (s.setIndex .iy v).alt = s.alt := rfl
@[simp] theorem State.setIndex_iy_ix (s : State) (v : Word) : (s.setIndex .iy v).ix = s.ix := rfl
@[simp] theorem State.setIndex_iy_iy (s : State) (v : Word) : (s.setIndex .iy v).iy = v := rfl
@[simp] theorem State.setIndex_iy_sp (s : State) (v : Word) : (s.setIndex .iy v).sp = s.sp := rfl
@[simp] theorem State.setIndex_iy_pc (s : State) (v : Word) : (s.setIndex .iy v).pc = s.pc := rfl
@[simp] theorem State.setIndex_iy_regI (s : State) (v : Word) : (s.setIndex .iy v).regI = s.regI := rfl
@[simp] theorem State.setIndex_iy_regR (s : State) (v : Word) : (s.setIndex .iy v).regR = s.regR := rfl
@[simp] theorem State.setIndex_iy_iff1 (s : State) (v : Word) : (s.setIndex .iy v).iff1 = s.iff1 := rfl
@[simp] theorem State.setIndex_iy_iff2 (s : State) (v : Word) : (s.setIndex .iy v).iff2 = s.iff2 := rfl
@[simp] theorem State.setIndex_iy_code (s : State) (v : Word) : (s.setIndex .iy v).code = s.code := rfl
@[simp] theorem State.setIndex_iy_ram (s : State) (v : Word) : (s.setIndex .iy v).ram = s.ram := rfl
@[simp] theorem State.setIndex_iy_vram (s : State) (v : Word) : (s.setIndex .iy v).vram = s.vram := rfl
@[simp] theorem State.setIndex_iy_stack (s : State) (v : Word) : (s.setIndex .iy v).stack = s.stack := rfl
@[simp] theorem State.setIndex_iy_params (s : State) (v : Word) : (s.setIndex .iy v).params = s.params := rfl
@[simp] theorem State.setIndex_iy_report (s : State) (v : Word) : (s.setIndex .iy v).report = s.report := rfl
@[simp] theorem State.setIndex_iy_sticky (s : State) (v : Word) : (s.setIndex .iy v).sticky = s.sticky := rfl
@[simp] theorem State.setIndex_iy_draws (s : State) (v : Word) : (s.setIndex .iy v).draws = s.draws := rfl

/-! ### State.setByte_ram -/

@[simp] theorem State.setByte_ram_main (s : State) (a : Nat) (v : Byte) : (s.setByte .ram a v).main = s.main := rfl
@[simp] theorem State.setByte_ram_alt (s : State) (a : Nat) (v : Byte) : (s.setByte .ram a v).alt = s.alt := rfl
@[simp] theorem State.setByte_ram_ix (s : State) (a : Nat) (v : Byte) : (s.setByte .ram a v).ix = s.ix := rfl
@[simp] theorem State.setByte_ram_iy (s : State) (a : Nat) (v : Byte) : (s.setByte .ram a v).iy = s.iy := rfl
@[simp] theorem State.setByte_ram_sp (s : State) (a : Nat) (v : Byte) : (s.setByte .ram a v).sp = s.sp := rfl
@[simp] theorem State.setByte_ram_pc (s : State) (a : Nat) (v : Byte) : (s.setByte .ram a v).pc = s.pc := rfl
@[simp] theorem State.setByte_ram_regI (s : State) (a : Nat) (v : Byte) : (s.setByte .ram a v).regI = s.regI := rfl
@[simp] theorem State.setByte_ram_regR (s : State) (a : Nat) (v : Byte) : (s.setByte .ram a v).regR = s.regR := rfl
@[simp] theorem State.setByte_ram_iff1 (s : State) (a : Nat) (v : Byte) : (s.setByte .ram a v).iff1 = s.iff1 := rfl
@[simp] theorem State.setByte_ram_iff2 (s : State) (a : Nat) (v : Byte) : (s.setByte .ram a v).iff2 = s.iff2 := rfl
@[simp] theorem State.setByte_ram_code (s : State) (a : Nat) (v : Byte) : (s.setByte .ram a v).code = s.code := rfl
@[simp] theorem State.setByte_ram_ram (s : State) (a : Nat) (v : Byte) : (s.setByte .ram a v).ram = s.ram.set a v := rfl
@[simp] theorem State.setByte_ram_vram (s : State) (a : Nat) (v : Byte) : (s.setByte .ram a v).vram = s.vram := rfl
@[simp] theorem State.setByte_ram_stack (s : State) (a : Nat) (v : Byte) : (s.setByte .ram a v).stack = s.stack := rfl
@[simp] theorem State.setByte_ram_params (s : State) (a : Nat) (v : Byte) : (s.setByte .ram a v).params = s.params := rfl
@[simp] theorem State.setByte_ram_report (s : State) (a : Nat) (v : Byte) : (s.setByte .ram a v).report = s.report := rfl
@[simp] theorem State.setByte_ram_sticky (s : State) (a : Nat) (v : Byte) : (s.setByte .ram a v).sticky = s.sticky := rfl
@[simp] theorem State.setByte_ram_draws (s : State) (a : Nat) (v : Byte) : (s.setByte .ram a v).draws = s.draws := rfl

/-! ### State.setByte_vram -/

@[simp] theorem State.setByte_vram_main (s : State) (a : Nat) (v : Byte) : (s.setByte .vram a v).main = s.main := rfl
@[simp] theorem State.setByte_vram_alt (s : State) (a : Nat) (v : Byte) : (s.setByte .vram a v).alt = s.alt := rfl
@[simp] theorem State.setByte_vram_ix (s : State) (a : Nat) (v : Byte) : (s.setByte .vram a v).ix = s.ix := rfl
@[simp] theorem State.setByte_vram_iy (s : State) (a : Nat) (v : Byte) : (s.setByte .vram a v).iy = s.iy := rfl
@[simp] theorem State.setByte_vram_sp (s : State) (a : Nat) (v : Byte) : (s.setByte .vram a v).sp = s.sp := rfl
@[simp] theorem State.setByte_vram_pc (s : State) (a : Nat) (v : Byte) : (s.setByte .vram a v).pc = s.pc := rfl
@[simp] theorem State.setByte_vram_regI (s : State) (a : Nat) (v : Byte) : (s.setByte .vram a v).regI = s.regI := rfl
@[simp] theorem State.setByte_vram_regR (s : State) (a : Nat) (v : Byte) : (s.setByte .vram a v).regR = s.regR := rfl
@[simp] theorem State.setByte_vram_iff1 (s : State) (a : Nat) (v : Byte) : (s.setByte .vram a v).iff1 = s.iff1 := rfl
@[simp] theorem State.setByte_vram_iff2 (s : State) (a : Nat) (v : Byte) : (s.setByte .vram a v).iff2 = s.iff2 := rfl
@[simp] theorem State.setByte_vram_code (s : State) (a : Nat) (v : Byte) : (s.setByte .vram a v).code = s.code := rfl
@[simp] theorem State.setByte_vram_ram (s : State) (a : Nat) (v : Byte) : (s.setByte .vram a v).ram = s.ram := rfl
@[simp] theorem State.setByte_vram_vram (s : State) (a : Nat) (v : Byte) : (s.setByte .vram a v).vram = s.vram.set a v := rfl
@[simp] theorem State.setByte_vram_stack (s : State) (a : Nat) (v : Byte) : (s.setByte .vram a v).stack = s.stack := rfl
@[simp] theorem State.setByte_vram_params (s : State) (a : Nat) (v : Byte) : (s.setByte .vram a v).params = s.params := rfl
@[simp] theorem State.setByte_vram_report (s : State) (a : Nat) (v : Byte) : (s.setByte .vram a v).report = s.report := rfl
@[simp] theorem State.setByte_vram_sticky (s : State) (a : Nat) (v : Byte) : (s.setByte .vram a v).sticky = s.sticky := rfl
@[simp] theorem State.setByte_vram_draws (s : State) (a : Nat) (v : Byte) : (s.setByte .vram a v).draws = s.draws := rfl

/-! ### State.setByte_stack -/

@[simp] theorem State.setByte_stack_main (s : State) (a : Nat) (v : Byte) : (s.setByte .stack a v).main = s.main := rfl
@[simp] theorem State.setByte_stack_alt (s : State) (a : Nat) (v : Byte) : (s.setByte .stack a v).alt = s.alt := rfl
@[simp] theorem State.setByte_stack_ix (s : State) (a : Nat) (v : Byte) : (s.setByte .stack a v).ix = s.ix := rfl
@[simp] theorem State.setByte_stack_iy (s : State) (a : Nat) (v : Byte) : (s.setByte .stack a v).iy = s.iy := rfl
@[simp] theorem State.setByte_stack_sp (s : State) (a : Nat) (v : Byte) : (s.setByte .stack a v).sp = s.sp := rfl
@[simp] theorem State.setByte_stack_pc (s : State) (a : Nat) (v : Byte) : (s.setByte .stack a v).pc = s.pc := rfl
@[simp] theorem State.setByte_stack_regI (s : State) (a : Nat) (v : Byte) : (s.setByte .stack a v).regI = s.regI := rfl
@[simp] theorem State.setByte_stack_regR (s : State) (a : Nat) (v : Byte) : (s.setByte .stack a v).regR = s.regR := rfl
@[simp] theorem State.setByte_stack_iff1 (s : State) (a : Nat) (v : Byte) : (s.setByte .stack a v).iff1 = s.iff1 := rfl
@[simp] theorem State.setByte_stack_iff2 (s : State) (a : Nat) (v : Byte) : (s.setByte .stack a v).iff2 = s.iff2 := rfl
@[simp] theorem State.setByte_stack_code (s : State) (a : Nat) (v : Byte) : (s.setByte .stack a v).code = s.code := rfl
@[simp] theorem State.setByte_stack_ram (s : State) (a : Nat) (v : Byte) : (s.setByte .stack a v).ram = s.ram := rfl
@[simp] theorem State.setByte_stack_vram (s : State) (a : Nat) (v : Byte) : (s.setByte .stack a v).vram = s.vram := rfl
@[simp] theorem State.setByte_stack_stack (s : State) (a : Nat) (v : Byte) : (s.setByte .stack a v).stack = s.stack.set a v := rfl
@[simp] theorem State.setByte_stack_params (s : State) (a : Nat) (v : Byte) : (s.setByte .stack a v).params = s.params := rfl
@[simp] theorem State.setByte_stack_report (s : State) (a : Nat) (v : Byte) : (s.setByte .stack a v).report = s.report := rfl
@[simp] theorem State.setByte_stack_sticky (s : State) (a : Nat) (v : Byte) : (s.setByte .stack a v).sticky = s.sticky := rfl
@[simp] theorem State.setByte_stack_draws (s : State) (a : Nat) (v : Byte) : (s.setByte .stack a v).draws = s.draws := rfl

end Sys2Proof.Machine
end

