-- ==== Sys2Proof/Laws/Ops.lean ====
section
/-! SUPPORT. One lemma per shared operation that says everything it can do; proofs cite these and unfold none of the operations. -/

namespace Sys2Proof.Machine

open Sys2Proof.Safety

@[simp] theorem addressValid_iff (p : Params) (sp : Space) (a : Word) :
    addressValid p sp a = true ↔ a.toNat < spaceSize p sp := by
  simp [addressValid]

/-! ### Reads -/

theorem byteAt_setByte (s : State) (sp sp' : Space) (a b : Nat) (v : Byte) :
    (s.setByte sp a v).byteAt sp' b = if sp' = sp ∧ b = a then v else s.byteAt sp' b := by
  cases sp <;> cases sp' <;> simp [State.byteAt, State.space, State.setByte, Memory.get?_set] <;> split <;> simp_all

theorem memRead_inRange {sp : Space} {a : Word} {s : State} (h : a.toNat < spaceSize s.params sp) :
    memRead sp a s = (s.byteAt sp a.toNat, s) := by
  simp [memRead, h]

theorem memRead_outOfRange {sp : Space} {a : Word} {s : State} (h : ¬ a.toNat < spaceSize s.params sp) :
    memRead sp a s = drawByte (reportOutOfRange sp a (readKind sp) s) := by
  simp [memRead, h]

/-- A read changes the report, the sticky mark and the draw count at most. -/
theorem memRead_frame (sp : Space) (a : Word) (s : State) :
    (memRead sp a s).2 = { s with
      report := ⟨s.report.kind, (memRead sp a s).2.report.conditions⟩
      sticky := (memRead sp a s).2.sticky
      draws := (memRead sp a s).2.draws } := by
  unfold memRead
  split <;> rfl

/-- A read reports at most its own address, and draws one byte when it does. -/
theorem memRead_report (sp : Space) (a : Word) (s : State) :
    ((memRead sp a s).2.report.conditions = s.report.conditions ∧ (memRead sp a s).2.sticky = s.sticky ∧
      (memRead sp a s).2.draws = s.draws) ∨
    ((memRead sp a s).2.report.conditions = s.report.conditions ++ [⟨sp, a, readKind sp⟩] ∧
      (memRead sp a s).2.sticky = true ∧ (memRead sp a s).2.draws = s.draws + 1) := by
  unfold memRead
  split
  · exact .inl ⟨rfl, rfl, rfl⟩
  · exact .inr ⟨rfl, rfl, rfl⟩

/-! ### Writes -/

theorem memWrite_inRange {sp : DataSpace} {a : Word} {v : Byte} {s : State} (h : a.toNat < spaceSize s.params sp.toSpace) :
    memWrite sp a v s = s.setByte sp.toSpace a.toNat v := by
  simp [memWrite, h]

theorem memWrite_outOfRange {sp : DataSpace} {a : Word} {v : Byte} {s : State}
    (h : ¬ a.toNat < spaceSize s.params sp.toSpace) :
    memWrite sp a v s = reportOutOfRange sp.toSpace a .write s := by
  simp [memWrite, h]

/-- A write changes RAM, VRAM or STACK, the report and the sticky mark at most. -/
theorem memWrite_frame (sp : DataSpace) (a : Word) (v : Byte) (s : State) :
    memWrite sp a v s = { s with
      ram := (memWrite sp a v s).ram
      vram := (memWrite sp a v s).vram
      stack := (memWrite sp a v s).stack
      report := ⟨s.report.kind, (memWrite sp a v s).report.conditions⟩
      sticky := (memWrite sp a v s).sticky } := by
  unfold memWrite
  split
  · cases sp <;> rfl
  · rfl

/-! ### Fetch -/

theorem fetch_inRange {s : State} (h : s.pc.toNat < s.params.imageLen) :
    fetch s = (s.codeByte s.pc, s.setPc (s.pc + 1)) := by
  simp [fetch, memRead_inRange (sp := .code) h, State.codeByte, State.setPc]

/-- A fetch advances PC by one, and otherwise changes what a read changes. -/
theorem fetch_frame (s : State) :
    (fetch s).2 = { s with
      pc := s.pc + 1
      report := ⟨s.report.kind, (fetch s).2.report.conditions⟩
      sticky := (fetch s).2.sticky
      draws := (fetch s).2.draws } := by
  show { (memRead .code s.pc s).2 with pc := s.pc + 1 } = _
  rw [memRead_frame]
  rfl

/-! ### Every instruction completes -/

/-- No meaning ends in a fault or a refusal. -/
theorem exec_completes (i : Instr) (s : State) : ∃ u, exec i s = .next u := by
  cases i <;> exact ⟨_, rfl⟩

end Sys2Proof.Machine
end

