-- ==== Sys2Proof/Laws/Stack.lean ====
section
/-! SUPPORT. What a push and a pop do, whether their addresses are in range or not. -/

namespace Sys2Proof.Machine

open Sys2Proof.Safety

theorem sub_one_sub_one (w : Word) : w - 1 - 1 = w - 2 := by bv_omega

theorem add_one_add_one (w : Word) : w + 1 + 1 = w + 2 := by bv_omega

theorem sub_two_add_one (w : Word) : w - 2 + 1 = w - 1 := by bv_omega

/-- Everything a push does (41_load16_stack.md R180). -/
theorem push16_spec (v : Word) (s : State) : Pushed s (push16 v s) v := by
  have hne : (s.sp - 1).toNat ≠ (s.sp - 2).toNat := by bv_omega
  have e : push16 v s = memWrite .stack (s.sp - 2) (loByte v) ((memWrite .stack (s.sp - 1) (hiByte v) (s.setSp (s.sp - 1))).setSp (s.sp - 2)) := by
    simp only [push16, decSp_eq, stackWrite, State.setSp_sp]
    rw [memWrite_frame .stack (s.sp - 1) (hiByte v)]
    simp only [State.setSp, sub_one_sub_one]
  rw [e]
  unfold Pushed StackHolds
  rw [sub_two_add_one]
  simp only [memWrite, addressValid, DataSpace.toSpace, spaceSize, stackConditions]
  generalize s.sp - 1 = x at *
  generalize s.sp - 2 = y at *
  let m1 := if x.toNat < s.params.stackSize then s.stack.set x.toNat (hiByte v) else s.stack
  refine ⟨if y.toNat < s.params.stackSize then m1.set y.toNat (loByte v) else m1, ?_, ?_⟩
  · by_cases h1 : x.toNat < s.params.stackSize <;> by_cases h2 : y.toNat < s.params.stackSize <;>
      simp [m1, h1, h2, withConditions, reportOutOfRange, State.setSp, State.setByte]
  · intro b
    by_cases h1 : x.toNat < s.params.stackSize <;> by_cases h2 : y.toNat < s.params.stackSize <;>
      simp only [m1, h1, h2, if_true, if_false, Memory.get?_set] <;> grind

/-- Everything a pop does (41_load16_stack.md R181). -/
theorem pop16_spec (s : State) : pop16 s = (cat (popHi s) (popLo s), popped s) := by
  have e : pop16 s = (cat (memRead .stack (s.sp + 1) ((memRead .stack s.sp s).2.setSp (s.sp + 1))).1 (memRead .stack s.sp s).1,
      (memRead .stack (s.sp + 1) ((memRead .stack s.sp s).2.setSp (s.sp + 1))).2.setSp (s.sp + 2)) := by
    simp only [pop16, incSp_eq, stackRead]
    have : (memRead .stack s.sp s).2.sp = s.sp := by rw [memRead_frame]
    rw [this]
    simp only [State.setSp_sp]
    have h2 : (memRead .stack (s.sp + 1) ((memRead .stack s.sp s).2.setSp (s.sp + 1))).2.sp = s.sp + 1 := by rw [memRead_frame]; rfl
    rw [h2, add_one_add_one]
  rw [e]
  simp only [memRead, addressValid, spaceSize, popped, stackConditions, popHi, popLo]
  generalize s.sp + 1 = y at *
  generalize s.sp + 2 = z at *
  by_cases h1 : s.sp.toNat < s.params.stackSize <;> by_cases h2 : y.toNat < s.params.stackSize <;>
    simp [h1, h2, withConditions, drawByte, reportOutOfRange, State.setSp, State.byteAt, State.space, readKind]

end Sys2Proof.Machine
end

