-- ==== Sys2Proof/Laws/Fetch.lean ====
section
/-! SUPPORT. What fetching an instruction does: in range it is `decode` of the code bytes with PC moved past them, and in every case
it changes PC, the report, the sticky mark and the draw count at most. -/

namespace Sys2Proof.Machine

open Sys2Proof.Safety

theorem eq_of_drop_eq {α : Type} {l : List α} {m n : Nat} (hm : m ≤ l.length) (hn : n ≤ l.length) (h : l.drop m = l.drop n) :
    m = n := by
  have := congrArg List.length h
  simp at this
  omega

theorem add_one_add_ofNat (w : Word) (n : Nat) : w + 1 + BitVec.ofNat 16 n = w + BitVec.ofNat 16 (n + 1) := by
  apply BitVec.eq_of_toNat_eq
  simp
  omega

@[simp] theorem State.setPc_setPc (s : State) (v w : Word) : (s.setPc v).setPc w = s.setPc w := rfl

theorem instr_length_bounds (i : Instr) : 1 ≤ i.length ∧ i.length ≤ 4 := by cases i <;> simp [Instr.length]

/-! ### In range -/

/-- Operand bytes fetched in range are those `Selected.complete` takes from the code bytes at PC. -/
theorem fetchOperands_inRange {sel : Selected} {s : State} {i : Instr} {n : Nat} {rest : List Byte}
    (hc : sel.complete (s.codeByte s.pc :: s.codeByte (s.pc + 1) :: rest) =
      .ok (i, (s.codeByte s.pc :: s.codeByte (s.pc + 1) :: rest).drop n))
    (hn : n ≤ rest.length + 2) (hr : codeInRange s.params s.pc n = true) :
    fetchOperands sel s = (i, s.setPc (s.pc + BitVec.ofNat 16 n)) := by
  cases sel with
  | op j =>
    simp only [Selected.complete, Except.ok.injEq, Prod.mk.injEq] at hc
    obtain rfl : 0 = n := eq_of_drop_eq (l := s.codeByte s.pc :: s.codeByte (s.pc + 1) :: rest) (by simp) (by simpa using hn) hc.2
    simp [fetchOperands, State.setPc, hc.1]
  | opByte k =>
    simp only [Selected.complete, Except.ok.injEq, Prod.mk.injEq] at hc
    obtain rfl : 1 = n := eq_of_drop_eq (l := s.codeByte s.pc :: s.codeByte (s.pc + 1) :: rest) (by simp) (by simpa using hn) hc.2
    simp only [codeInRange, addressValid_iff, spaceSize, Bool.and_eq_true] at hr
    simp only [fetchOperands, fetch_inRange hr.1, hc.1]
    rfl
  | opWord k =>
    simp only [Selected.complete, Except.ok.injEq, Prod.mk.injEq] at hc
    obtain rfl : 2 = n := eq_of_drop_eq (l := s.codeByte s.pc :: s.codeByte (s.pc + 1) :: rest) (by simp) (by simpa using hn) hc.2
    simp only [codeInRange, addressValid_iff, spaceSize, Bool.and_eq_true] at hr
    have h2 : fetch (s.setPc (s.pc + 1)) = _ := fetch_inRange (s := s.setPc (s.pc + 1)) hr.2.1
    simp only [fetchOperands, fetch_inRange hr.1, h2, State.setPc_pc, State.setPc_setPc, add_one_add_one]
    rw [← hc.1]
    rfl

/-- An instruction fetched in range is the one its code bytes decode to, and PC moves past them. -/
theorem fetchInstr_inRange {s : State} {i : Instr} (h : FetchesInRange s i) :
    fetchInstr s = (i, s.setPc (s.pc + BitVec.ofNat 16 i.length)) := by
  obtain ⟨hr, hd⟩ := h
  obtain ⟨hl1, hl4⟩ := instr_length_bounds i
  generalize i.length = n at *
  obtain ⟨n, rfl⟩ : ∃ m, n = m + 1 := ⟨n - 1, by omega⟩
  simp only [State.codeBytes, List.drop_succ_cons, decode] at hd
  simp only [codeInRange, Bool.and_eq_true, addressValid_iff, spaceSize] at hr
  simp only [fetchInstr, fetch_inRange hr.1]
  cases hp : decodePfx (s.codeByte s.pc) with
  | none =>
    simp only [hp] at hd
    have := fetchOperands_inRange (s := s.setPc (s.pc + 1)) (n := n) hd (by simp; omega) hr.2
    simp only [this, State.setPc_pc, State.setPc_setPc, add_one_add_ofNat]
  | some p =>
    simp only [hp] at hd
    have hn : n ≠ 0 := by
      rintro rfl
      have := Selected.complete_length hd
      simp at this
    obtain ⟨n, rfl⟩ : ∃ m, n = m + 1 := ⟨n - 1, by omega⟩
    simp only [codeInRange, Bool.and_eq_true, addressValid_iff, spaceSize] at hr
    have h2 : fetch (s.setPc (s.pc + 1)) = _ := fetch_inRange (s := s.setPc (s.pc + 1)) hr.2.1
    have := fetchOperands_inRange (s := (s.setPc (s.pc + 1)).setPc (s.pc + 1 + 1)) (n := n)
      (sel := selectPrefixed p (s.codeByte (s.pc + 1))) (i := i) (rest := []) hd (by simp; omega) hr.2.2
    simp only [h2]
    refine Eq.trans this ?_
    simp only [State.setPc_pc, State.setPc_setPc, add_one_add_ofNat]

/-! ### In every case -/

/-- The byte the next fetch gives. -/
def fetchedByte (s : State) : Byte := if s.pc.toNat < s.params.imageLen then s.codeByte s.pc else Config.draw s.draws

theorem consumed_zero (s : State) : consumed s 0 = s := by simp [consumed, fetchConditions, withConditions]

/-- Everything one fetch does. -/
theorem fetch_eq (s : State) : fetch s = (fetchedByte s, consumed s 1) := by
  by_cases h : s.pc.toNat < s.params.imageLen
  · simp [fetch_inRange h, fetchedByte, consumed, fetchConditions, withConditions, State.setPc, h]
  · have hm : memRead .code s.pc s = _ := memRead_outOfRange (sp := .code) h
    simp [fetch, hm, drawByte, reportOutOfRange, readKind, fetchedByte, consumed, fetchConditions, withConditions, h]

theorem fetchConditions_add (p : Params) (a : Word) (m n : Nat) :
    fetchConditions p a (m + n) = fetchConditions p a m ++ fetchConditions p (a + BitVec.ofNat 16 m) n := by
  induction m generalizing a with
  | zero => simp [fetchConditions]
  | succ m ih =>
    rw [Nat.add_right_comm, fetchConditions, fetchConditions, ih, add_one_add_ofNat]
    split <;> simp

theorem consumed_consumed (s : State) (m n : Nat) : consumed (consumed s m) n = consumed s (m + n) := by
  have hp : s.pc + BitVec.ofNat 16 m + BitVec.ofNat 16 n = s.pc + BitVec.ofNat 16 (m + n) := by
    apply BitVec.eq_of_toNat_eq
    simp [Nat.add_assoc]
  simp [consumed, withConditions, fetchConditions_add, hp, Nat.add_assoc, Bool.or_assoc]
  cases fetchConditions s.params s.pc m <;> simp

/-- The bytes fetched depend on the image and the parameters alone. -/
theorem fetchedBytes_congr {s t : State} (hc : t.code = s.code) (hp : t.params = s.params) (a : Word) (d n : Nat) :
    fetchedBytes t a d n = fetchedBytes s a d n := by
  induction n generalizing a d with
  | zero => rfl
  | succ n ih => simp only [fetchedBytes, ih, hp, State.codeByte, State.byteAt, State.space, hc]

theorem fetchedBytes_succ (s : State) (n : Nat) :
    fetchedBytes s s.pc s.draws (n + 1) =
      fetchedByte s :: fetchedBytes (consumed s 1) (consumed s 1).pc (consumed s 1).draws n := by
  rw [fetchedBytes_congr (s := s) (t := consumed s 1) rfl rfl]
  by_cases h : s.pc.toNat < s.params.imageLen <;> simp [fetchedBytes, fetchedByte, consumed, fetchConditions, withConditions, h]

/-- Everything fetching operand bytes does. -/
theorem fetchOperands_eq (sel : Selected) (s : State) (n : Nat) :
    sel.complete (fetchedBytes s s.pc s.draws (n + 2)) =
      .ok ((fetchOperands sel s).1, (fetchedBytes s s.pc s.draws (n + 2)).drop sel.operandBytes) ∧
    (fetchOperands sel s).2 = consumed s sel.operandBytes := by
  cases sel with
  | op i => exact ⟨rfl, (consumed_zero s).symm⟩
  | opByte k =>
    rw [fetchedBytes_succ]
    simp [fetchOperands, fetch_eq, Selected.complete, Selected.operandBytes]
  | opWord k =>
    rw [fetchedBytes_succ, fetchedBytes_succ]
    simp [fetchOperands, fetch_eq, Selected.complete, Selected.operandBytes, consumed_consumed]

/-- Everything fetching an instruction does: it is the one the fetched bytes decode to, and its bytes are consumed. -/
theorem fetchInstr_eq (s : State) :
    decode (fetchedBytes s s.pc s.draws 4) =
      .ok ((fetchInstr s).1, (fetchedBytes s s.pc s.draws 4).drop (fetchInstr s).1.length) ∧
    (fetchInstr s).2 = consumed s (fetchInstr s).1.length := by
  rw [fetchedBytes_succ]
  cases hp : decodePfx (fetchedByte s) with
  | none =>
    obtain ⟨h1, h2⟩ := fetchOperands_eq (selectOp (fetchedByte s)) (consumed s 1) 1
    have hl := (selectOp_sound hp).length h1
    have hf : fetchInstr s = fetchOperands (selectOp (fetchedByte s)) (consumed s 1) := by simp only [fetchInstr, fetch_eq, hp]
    rw [hf, hl, h2, consumed_consumed]
    exact ⟨by simpa only [decode, hp, List.length_singleton, Nat.add_comm 1, List.drop_succ_cons] using h1, rfl⟩
  | some p =>
    rw [fetchedBytes_succ]
    obtain ⟨h1, h2⟩ := fetchOperands_eq (selectPrefixed p (fetchedByte (consumed s 1))) (consumed (consumed s 1) 1) 0
    have hl := (selectPrefixed_sound p (fetchedByte (consumed s 1))).length h1
    have hf : fetchInstr s = fetchOperands (selectPrefixed p (fetchedByte (consumed s 1))) (consumed (consumed s 1) 1) := by
      simp only [fetchInstr, fetch_eq, hp]
    refine ⟨?_, by rw [hf, hl, h2, consumed_consumed, consumed_consumed, ← Nat.add_assoc]; rfl⟩
    rw [hf, hl]
    simpa only [decode, hp, List.length_cons, List.length_nil, Nat.add_comm 2, List.drop_succ_cons] using h1

theorem fetchOperands_frame (sel : Selected) (s : State) :
    (fetchOperands sel s).2 = { s with
      pc := (fetchOperands sel s).2.pc
      report := ⟨s.report.kind, (fetchOperands sel s).2.report.conditions⟩
      sticky := (fetchOperands sel s).2.sticky
      draws := (fetchOperands sel s).2.draws } := by
  cases sel with
  | op i => rfl
  | opByte k =>
    simp only [fetchOperands]
    rw [fetch_frame]
  | opWord k =>
    simp only [fetchOperands]
    rw [fetch_frame, fetch_frame]

/-- Fetching an instruction changes PC, the report, the sticky mark and the draw count at most. -/
theorem fetchInstr_frame (s : State) :
    (fetchInstr s).2 = { s with
      pc := (fetchInstr s).2.pc
      report := ⟨s.report.kind, (fetchInstr s).2.report.conditions⟩
      sticky := (fetchInstr s).2.sticky
      draws := (fetchInstr s).2.draws } := by
  unfold fetchInstr
  dsimp only
  split
  · rw [fetchOperands_frame, fetch_frame]
  · rw [fetchOperands_frame, fetch_frame, fetch_frame]

/-- A step that completes had legal parameters and ran the instruction it fetched. -/
theorem exec_of_step {s u : State} (h : step s = .next u) :
    s.params.valid = true ∧ exec (fetchInstr (beginStep s)).1 (fetchInstr (beginStep s)).2 = .next u := by
  unfold step at h
  split at h
  · exact ⟨‹_›, h⟩
  · cases h

end Sys2Proof.Machine
end

