-- ==== Sys2Proof/Laws/Frames.lean ====
section
/-! SUPPORT. One lemma per field an access leaves alone, and the invariant under every operation over memory: each keeps the
canonical form of every space. -/

namespace Sys2Proof.Machine

open Sys2Proof.Safety

/-! ### Fields a read leaves alone -/

@[simp] theorem memRead_main (sp : Space) (a : Word) (s : State) : (memRead sp a s).2.main = s.main := by rw [memRead_frame]

@[simp] theorem memRead_alt (sp : Space) (a : Word) (s : State) : (memRead sp a s).2.alt = s.alt := by rw [memRead_frame]

@[simp] theorem memRead_ix (sp : Space) (a : Word) (s : State) : (memRead sp a s).2.ix = s.ix := by rw [memRead_frame]

@[simp] theorem memRead_iy (sp : Space) (a : Word) (s : State) : (memRead sp a s).2.iy = s.iy := by rw [memRead_frame]

@[simp] theorem memRead_sp (sp : Space) (a : Word) (s : State) : (memRead sp a s).2.sp = s.sp := by rw [memRead_frame]

@[simp] theorem memRead_pc (sp : Space) (a : Word) (s : State) : (memRead sp a s).2.pc = s.pc := by rw [memRead_frame]

@[simp] theorem memRead_regI (sp : Space) (a : Word) (s : State) : (memRead sp a s).2.regI = s.regI := by rw [memRead_frame]

@[simp] theorem memRead_regR (sp : Space) (a : Word) (s : State) : (memRead sp a s).2.regR = s.regR := by rw [memRead_frame]

@[simp] theorem memRead_iff1 (sp : Space) (a : Word) (s : State) : (memRead sp a s).2.iff1 = s.iff1 := by rw [memRead_frame]

@[simp] theorem memRead_iff2 (sp : Space) (a : Word) (s : State) : (memRead sp a s).2.iff2 = s.iff2 := by rw [memRead_frame]

@[simp] theorem memRead_code (sp : Space) (a : Word) (s : State) : (memRead sp a s).2.code = s.code := by rw [memRead_frame]

@[simp] theorem memRead_ram (sp : Space) (a : Word) (s : State) : (memRead sp a s).2.ram = s.ram := by rw [memRead_frame]

@[simp] theorem memRead_vram (sp : Space) (a : Word) (s : State) : (memRead sp a s).2.vram = s.vram := by rw [memRead_frame]

@[simp] theorem memRead_stack (sp : Space) (a : Word) (s : State) : (memRead sp a s).2.stack = s.stack := by rw [memRead_frame]

@[simp] theorem memRead_params (sp : Space) (a : Word) (s : State) : (memRead sp a s).2.params = s.params := by rw [memRead_frame]

@[simp] theorem memRead_kind (sp : Space) (a : Word) (s : State) : (memRead sp a s).2.report.kind = s.report.kind := by
  rw [memRead_frame]

/-! ### Fields a write leaves alone -/

@[simp] theorem memWrite_main (sp : DataSpace) (a : Word) (v : Byte) (s : State) : (memWrite sp a v s).main = s.main := by
  rw [memWrite_frame]

@[simp] theorem memWrite_alt (sp : DataSpace) (a : Word) (v : Byte) (s : State) : (memWrite sp a v s).alt = s.alt := by
  rw [memWrite_frame]

@[simp] theorem memWrite_ix (sp : DataSpace) (a : Word) (v : Byte) (s : State) : (memWrite sp a v s).ix = s.ix := by
  rw [memWrite_frame]

@[simp] theorem memWrite_iy (sp : DataSpace) (a : Word) (v : Byte) (s : State) : (memWrite sp a v s).iy = s.iy := by
  rw [memWrite_frame]

@[simp] theorem memWrite_sp (sp : DataSpace) (a : Word) (v : Byte) (s : State) : (memWrite sp a v s).sp = s.sp := by
  rw [memWrite_frame]

@[simp] theorem memWrite_pc (sp : DataSpace) (a : Word) (v : Byte) (s : State) : (memWrite sp a v s).pc = s.pc := by
  rw [memWrite_frame]

@[simp] theorem memWrite_regI (sp : DataSpace) (a : Word) (v : Byte) (s : State) : (memWrite sp a v s).regI = s.regI := by
  rw [memWrite_frame]

@[simp] theorem memWrite_regR (sp : DataSpace) (a : Word) (v : Byte) (s : State) : (memWrite sp a v s).regR = s.regR := by
  rw [memWrite_frame]

@[simp] theorem memWrite_iff1 (sp : DataSpace) (a : Word) (v : Byte) (s : State) : (memWrite sp a v s).iff1 = s.iff1 := by
  rw [memWrite_frame]

@[simp] theorem memWrite_iff2 (sp : DataSpace) (a : Word) (v : Byte) (s : State) : (memWrite sp a v s).iff2 = s.iff2 := by
  rw [memWrite_frame]

@[simp] theorem memWrite_code (sp : DataSpace) (a : Word) (v : Byte) (s : State) : (memWrite sp a v s).code = s.code := by
  rw [memWrite_frame]

@[simp] theorem memWrite_params (sp : DataSpace) (a : Word) (v : Byte) (s : State) : (memWrite sp a v s).params = s.params := by
  rw [memWrite_frame]

@[simp] theorem memWrite_draws (sp : DataSpace) (a : Word) (v : Byte) (s : State) : (memWrite sp a v s).draws = s.draws := by
  rw [memWrite_frame]

@[simp] theorem memWrite_kind (sp : DataSpace) (a : Word) (v : Byte) (s : State) :
    (memWrite sp a v s).report.kind = s.report.kind := by
  rw [memWrite_frame]

@[simp] theorem memWrite_ram_vram (a : Word) (v : Byte) (s : State) : (memWrite .ram a v s).vram = s.vram := by
  unfold memWrite
  split <;> rfl

@[simp] theorem memWrite_ram_stack (a : Word) (v : Byte) (s : State) : (memWrite .ram a v s).stack = s.stack := by
  unfold memWrite
  split <;> rfl

@[simp] theorem memWrite_stack_vram (a : Word) (v : Byte) (s : State) : (memWrite .stack a v s).vram = s.vram := by
  unfold memWrite
  split <;> rfl

@[simp] theorem memWrite_stack_ram (a : Word) (v : Byte) (s : State) : (memWrite .stack a v s).ram = s.ram := by
  unfold memWrite
  split <;> rfl

/-! ### Bytes -/

@[simp] theorem byteAt_memRead (sp : Space) (a : Word) (s : State) (sp' : Space) (b : Nat) :
    (memRead sp a s).2.byteAt sp' b = s.byteAt sp' b := by
  cases sp' <;> simp [State.byteAt, State.space]

/-- A write changes the one byte at most. -/
theorem byteAt_memWrite {sp : DataSpace} {a : Word} {sp' : Space} {b : Nat} (h : (sp', b) ≠ (sp.toSpace, a.toNat)) (v : Byte)
    (s : State) : (memWrite sp a v s).byteAt sp' b = s.byteAt sp' b := by
  unfold memWrite
  split
  · rw [byteAt_setByte, if_neg]
    rintro ⟨rfl, rfl⟩
    exact h rfl
  · rfl

/-! ### The invariant -/

theorem invariant_setRegs {s : State} (h : Invariant s) (k k' : Bank) (ix iy sp pc : Word) (i1 i2 : Bool) (d : Nat) :
    Invariant { s with main := k, alt := k', ix := ix, iy := iy, sp := sp, pc := pc, iff1 := i1, iff2 := i2, draws := d } := h

theorem invariant_memRead {s : State} (h : Invariant s) (sp : Space) (a : Word) : Invariant (memRead sp a s).2 := by
  obtain ⟨h1, h2, h3, h4, h5, h6⟩ := h
  unfold memRead
  split
  · exact ⟨h1, h2, h3, h4, h5, h6⟩
  · exact ⟨h1, h2, h3, h4, h5, fun _ => rfl⟩

theorem invariant_memWrite {s : State} (h : Invariant s) (sp : DataSpace) (a : Word) (v : Byte) :
    Invariant (memWrite sp a v s) := by
  obtain ⟨h1, h2, h3, h4, h5, h6⟩ := h
  unfold memWrite
  split
  · next hv =>
    rw [addressValid_iff] at hv
    cases sp
    · exact ⟨h1, h2, ⟨Memory.set_wf h3.1 _ _, Memory.set_below h3.2 hv _⟩, h4, h5, h6⟩
    · exact ⟨h1, h2, h3, ⟨Memory.set_wf h4.1 _ _, Memory.set_below h4.2 hv _⟩, h5, h6⟩
    · exact ⟨h1, h2, h3, h4, ⟨Memory.set_wf h5.1 _ _, Memory.set_below h5.2 hv _⟩, h6⟩
  · exact ⟨h1, h2, h3, h4, h5, fun _ => rfl⟩

theorem invariant_fetch {s : State} (h : Invariant s) : Invariant (fetch s).2 := invariant_memRead h .code s.pc

theorem invariant_push16 {s : State} (h : Invariant s) (v : Word) : Invariant (push16 v s) := by
  simp only [push16, stackWrite, decSp]
  exact invariant_memWrite (invariant_setRegs (invariant_memWrite (invariant_setRegs h _ _ _ _ _ _ _ _ _) _ _ _) _ _ _ _ _ _ _ _ _) _ _ _

theorem invariant_pop16 {s : State} (h : Invariant s) : Invariant (pop16 s).2 := by
  simp only [pop16, stackRead, incSp]
  exact invariant_setRegs (invariant_memRead (invariant_setRegs (invariant_memRead h _ _) _ _ _ _ _ _ _ _ _) _ _) _ _ _ _ _ _ _ _ _

/-- Placing code bytes keeps the canonical form of the CODE space. -/
theorem placeCode_code_wf (bs : List Byte) (a : Word) (s : State) (h : s.code.wf) : (placeCode a bs s).code.wf := by
  induction bs generalizing a s with
  | nil => exact h
  | cons b bs ih => exact ih _ _ (Memory.set_wf h _ _)

/-- Nothing is listed in any space after reset, so every space is in canonical form. -/
theorem reset_spaces_wf (p : Params) (sp : Space) : ((State.resetWith p).space sp).wf := by
  cases sp <;> simp [State.resetWith, State.space]

end Sys2Proof.Machine
end

