-- ==== Sys2Proof/Laws/PerInstr.lean ====
section
/-! SUPPORT. The statement made of every instruction as syntax, and its lemma for each constructor: the number of bytes its encoding
has is the length its format gives (30_encoding.md R124). -/

namespace Sys2Proof.Laws.EncodeLength

/-- The encoding of an instruction has the length of its format. -/
def Statement (i : Instr) : Prop := (encode i).length = i.length

theorem ldRR (t r : Reg8) : Statement (.ldRR t r) := rfl
theorem ldRN (t : Reg8) (n : Byte) : Statement (.ldRN t n) := rfl
theorem ldRHl (t : Reg8) : Statement (.ldRHl t) := rfl
theorem ldHlR (r : Reg8) : Statement (.ldHlR r) := rfl
theorem ldDdNn (p : PairDD) (nn : Word) : Statement (.ldDdNn p nn) := rfl
theorem pushQq (p : PairQQ) : Statement (.pushQq p) := rfl
theorem popQq (p : PairQQ) : Statement (.popQq p) := rfl
theorem ldABc : Statement .ldABc := rfl
theorem ldADe : Statement .ldADe := rfl
theorem ldANn (nn : Word) : Statement (.ldANn nn) := rfl
theorem ldBcA : Statement .ldBcA := rfl
theorem ldDeA : Statement .ldDeA := rfl
theorem ldNnA (nn : Word) : Statement (.ldNnA nn) := rfl
theorem exDeHl : Statement .exDeHl := rfl
theorem exAfAf : Statement .exAfAf := rfl
theorem exx : Statement .exx := rfl
theorem exSpHl : Statement .exSpHl := rfl
theorem addAN (n : Byte) : Statement (.addAN n) := rfl
theorem addAHl : Statement .addAHl := rfl
theorem subN (n : Byte) : Statement (.subN n) := rfl
theorem subHl : Statement .subHl := rfl
theorem jpNn (nn : Word) : Statement (.jpNn nn) := rfl
theorem jrE (e : Byte) : Statement (.jrE e) := rfl
theorem jrNzE (e : Byte) : Statement (.jrNzE e) := rfl
theorem jrZE (e : Byte) : Statement (.jrZE e) := rfl
theorem jrNcE (e : Byte) : Statement (.jrNcE e) := rfl
theorem jrCE (e : Byte) : Statement (.jrCE e) := rfl
theorem callNn (nn : Word) : Statement (.callNn nn) := rfl
theorem ret : Statement .ret := rfl
theorem di : Statement .di := rfl
theorem ei : Statement .ei := rfl
theorem inAN (n : Byte) : Statement (.inAN n) := rfl
theorem addAR (r : Reg8) : Statement (.addAR r) := rfl
theorem subR (r : Reg8) : Statement (.subR r) := rfl
theorem jpCcNn (cc : Cond) (nn : Word) : Statement (.jpCcNn cc nn) := rfl
theorem retCc (cc : Cond) : Statement (.retCc cc) := rfl
theorem ldIxNn (nn : Word) : Statement (.ldIxNn nn) := rfl
theorem ldRIxD (t : Reg8) (d : Byte) : Statement (.ldRIxD t d) := rfl
theorem ldIxDR (d : Byte) (r : Reg8) : Statement (.ldIxDR d r) := rfl
theorem pushIx : Statement .pushIx := rfl
theorem popIx : Statement .popIx := rfl
theorem ldIyNn (nn : Word) : Statement (.ldIyNn nn) := rfl
theorem ldRIyD (t : Reg8) (d : Byte) : Statement (.ldRIyD t d) := rfl
theorem ldIyDR (d : Byte) (r : Reg8) : Statement (.ldIyDR d r) := rfl
theorem pushIy : Statement .pushIy := rfl
theorem popIy : Statement .popIy := rfl
theorem unrecognized (op : Byte) : Statement (.unrecognized op) := rfl
theorem unrecognizedPrefixed (p : Pfx) (op2 : Byte) : Statement (.unrecognizedPrefixed p op2) := rfl

end Sys2Proof.Laws.EncodeLength
end

