-- ==== Sys2Proof/Tests/Slice0.lean ====
section
/-! SUPPORT. The model's own tests. Expected results are taken from the spec: the encodings written out bit by bit from the
instruction rules, and the vectors S and V of 95_test_vectors.md, whose numbers the comments give. Then one witness for each
statement with hypotheses, at the boundary values of their ranges. -/

namespace Sys2Proof.Tests

open Sys2Proof.Machine Sys2Proof.Safety

/-! ### WellFormed refuses what no bytes encode -/

theorem test_wf_refuses_admitted_byte : (Instr.unrecognized 0x78).wf = false := by decide
theorem test_wf_refuses_second_table_byte : (Instr.unrecognized 0xDD).wf = false := by decide
theorem test_wf_refuses_admitted_after_dd : (Instr.unrecognizedPrefixed .dd 0x21).wf = false := by decide
theorem test_wf_refuses_admitted_after_fd : (Instr.unrecognizedPrefixed .fd 0xE5).wf = false := by decide
theorem test_wf_accepts_unrecognized :
    (Instr.unrecognized 0x76).wf = true ∧ (Instr.unrecognizedPrefixed .cb 0x21).wf = true ∧
    (Instr.unrecognizedPrefixed .ed 0x4D).wf = true ∧ (Instr.unrecognizedPrefixed .dd 0xDD).wf = true ∧
    (Instr.unrecognizedPrefixed .fd 0xCB).wf = true := by decide

/-- R121 gives 115 unprefixed bytes, R120 17 second bytes. -/
theorem test_byte_lists_have_the_spec_sizes : unrecognizedBytes.length = 115 ∧ indexedSecondBytes.length = 17 := by decide

/-! ### Every constructor's decoding, from a word written out bit by bit -/

/-- The bytes decode to i, every byte consumed. -/
def Decodes (bs : List Byte) (i : Instr) : Prop := decode bs = .ok (i, [])

/-- R151 01 t s; R152 00 t 110 n; R153 01 t 110; R154 01110 s. -/
theorem test_decode_load8 :
    Decodes [0b01111000] (.ldRR .a .b) ∧
    Decodes [0b01100101] (.ldRR .h .l) ∧
    Decodes [0b00000110, 0xFF] (.ldRN .b 0xFF) ∧
    Decodes [0b01001110] (.ldRHl .c) ∧
    Decodes [0b01110000] (.ldHlR .b) ∧
    Decodes [0b01110111] (.ldHlR .a) :=
  ⟨rfl, rfl, rfl, rfl, rfl, rfl⟩

/-- R155 DD/FD 01 t 110 d; R156 DD/FD 01110 s d. -/
theorem test_decode_load8_indexed :
    Decodes [0b11011101, 0b01000110, 0x05] (.ldRIxD .b 0x05) ∧
    Decodes [0b11111101, 0b01111110, 0xFF] (.ldRIyD .a 0xFF) ∧
    Decodes [0b11011101, 0b01110100, 0x00] (.ldIxDR 0x00 .h) ∧
    Decodes [0b11111101, 0b01110111, 0x05] (.ldIyDR 0x05 .a) :=
  ⟨rfl, rfl, rfl, rfl⟩

/-- R157 to R162; an immediate is little-endian (R115). -/
theorem test_decode_load8_accumulator :
    Decodes [0b00001010] .ldABc ∧
    Decodes [0b00011010] .ldADe ∧
    Decodes [0b00111010, 0x34, 0x12] (.ldANn 0x1234) ∧
    Decodes [0b00000010] .ldBcA ∧
    Decodes [0b00010010] .ldDeA ∧
    Decodes [0b00110010, 0x00, 0x10] (.ldNnA 0x1000) :=
  ⟨rfl, rfl, rfl, rfl, rfl, rfl⟩

/-- R183 00 p 0001 nn; R184 11 p 0101; R185 11 p 0001. -/
theorem test_decode_load16 :
    Decodes [0b00000001, 0x34, 0x12] (.ldDdNn .bc 0x1234) ∧
    Decodes [0b00110001, 0x00, 0x01] (.ldDdNn .sp 0x0100) ∧
    Decodes [0b11000101] (.pushQq .bc) ∧
    Decodes [0b11110101] (.pushQq .af) ∧
    Decodes [0b11010001] (.popQq .de) ∧
    Decodes [0b11100001] (.popQq .hl) :=
  ⟨rfl, rfl, rfl, rfl, rfl, rfl⟩

/-- R186 to R188. -/
theorem test_decode_load16_index :
    Decodes [0b11011101, 0b00100001, 0xCD, 0xAB] (.ldIxNn 0xABCD) ∧
    Decodes [0b11111101, 0b00100001, 0x34, 0x12] (.ldIyNn 0x1234) ∧
    Decodes [0b11011101, 0b11100101] .pushIx ∧
    Decodes [0b11111101, 0b11100101] .pushIy ∧
    Decodes [0b11011101, 0b11100001] .popIx ∧
    Decodes [0b11111101, 0b11100001] .popIy :=
  ⟨rfl, rfl, rfl, rfl, rfl, rfl⟩

/-- R200 to R203. -/
theorem test_decode_exchange :
    Decodes [0b11101011] .exDeHl ∧
    Decodes [0b00001000] .exAfAf ∧
    Decodes [0b11011001] .exx ∧
    Decodes [0b11100011] .exSpHl :=
  ⟨rfl, rfl, rfl, rfl⟩

/-- R214 to R219. -/
theorem test_decode_arith :
    Decodes [0b10000111] (.addAR .a) ∧
    Decodes [0b11000110, 0x03] (.addAN 0x03) ∧
    Decodes [0b10000110] .addAHl ∧
    Decodes [0b10010000] (.subR .b) ∧
    Decodes [0b11010110, 0x08] (.subN 0x08) ∧
    Decodes [0b10010110] .subHl :=
  ⟨rfl, rfl, rfl, rfl, rfl, rfl⟩

/-- R241 11000011; R242 11 c 010; R244 00011000; R245 001jj000. -/
theorem test_decode_jump :
    Decodes [0b11000011, 0x00, 0x10] (.jpNn 0x1000) ∧
    Decodes [0b11101010, 0x00, 0x20] (.jpCcNn .pe 0x2000) ∧
    Decodes [0b11110010, 0x34, 0x12] (.jpCcNn .p 0x1234) ∧
    Decodes [0b00011000, 0xFE] (.jrE 0xFE) ∧
    Decodes [0b00100000, 0x05] (.jrNzE 0x05) ∧
    Decodes [0b00101000, 0x05] (.jrZE 0x05) ∧
    Decodes [0b00110000, 0xF0] (.jrNcE 0xF0) ∧
    Decodes [0b00111000, 0xF0] (.jrCE 0xF0) :=
  ⟨rfl, rfl, rfl, rfl, rfl, rfl, rfl, rfl⟩

/-- R246 to R248. -/
theorem test_decode_call_return :
    Decodes [0b11001101, 0x0A, 0x00] (.callNn 0x000A) ∧
    Decodes [0b11001001] .ret ∧
    Decodes [0b11001000] (.retCc .z) ∧
    Decodes [0b11111000] (.retCc .m) :=
  ⟨rfl, rfl, rfl, rfl⟩

/-- R260 to R262. -/
theorem test_decode_system :
    Decodes [0b11110011] .di ∧
    Decodes [0b11111011] .ei ∧
    Decodes [0b11011011, 0x7E] (.inAN 0x7E) :=
  ⟨rfl, rfl, rfl⟩

/-- V88, V89, V92 to V94, V97, V98. -/
theorem test_decode_unrecognized :
    Decodes [0x00] (.unrecognized 0x00) ∧
    Decodes [0x76] (.unrecognized 0x76) ∧
    Decodes [0xCB, 0x07] (.unrecognizedPrefixed .cb 0x07) ∧
    Decodes [0xED, 0x4D] (.unrecognizedPrefixed .ed 0x4D) ∧
    Decodes [0xDD, 0x09] (.unrecognizedPrefixed .dd 0x09) ∧
    Decodes [0xDD, 0x76] (.unrecognizedPrefixed .dd 0x76) ∧
    Decodes [0xFD, 0xCB] (.unrecognizedPrefixed .fd 0xCB) :=
  ⟨rfl, rfl, rfl, rfl, rfl, rfl, rfl⟩

/-- V90, V95: the byte after an unrecognized opcode is not consumed, and a second selector is not dispatched again. -/
theorem test_decode_leaves_the_rest :
    decode [0x36, 0x12] = .ok (.unrecognized 0x36, [0x12]) ∧
    decode [0xDD, 0xDD, 0x21, 0x00, 0x01] = .ok (.unrecognizedPrefixed .dd 0xDD, [0x21, 0x00, 0x01]) := ⟨rfl, rfl⟩

/-- S9: isRegisterEncodingValid. -/
theorem test_register_encodings :
    isRegisterEncodingValid 6 = false ∧ isRegisterEncodingValid 8 = false ∧
    [0, 1, 2, 3, 4, 5, 7].all isRegisterEncodingValid = true := by decide

/-! ### Words numbered as the opcode table numbers them -/

theorem test_table_words :
    decodeTableWord 8 0x78 = some (.ldRR .a .b) ∧ decodeTableWord 8 0xC3 = some (.jpNn 0) ∧
    decodeTableWord 16 0xDD21 = some (.ldIxNn 0) ∧ decodeTableWord 16 0xFDE5 = some .pushIy ∧
    decodeTableWord 16 0xCB07 = some (.unrecognizedPrefixed .cb 0x07) := by decide

theorem test_step_runs_a_placed_word :
    step (State.reset.withFetchWord 16 0xDD21) =
      exec (.ldIxNn 0) (atInstr (State.reset.withFetchWord 16 0xDD21) (.ldIxNn 0)) := rfl

/-! ### One step -/

/-- The state at the start of a vector: reset, with a primary bank and the code bytes at PC. -/
def start (bs : List Byte) (k : Bank) (pc : Word := 0) : State := placeCode pc bs { State.reset with main := k, pc := pc }

/-- The vectors' stack: SP and two bytes from it on. -/
def withStack (sp : Word) (lo hi : Byte) (s : State) : State :=
  { s with sp := sp, stack := Memory.ofBytes sp.toNat [lo, hi] }

/-- The vectors' RAM: one byte. -/
def withRam (a : Word) (v : Byte) (s : State) : State := { s with ram := [(a.toNat, v)] }

/-- A view of the state after one step. -/
def after {α : Type} (s : State) (view : State → α) : Option α :=
  match step s with
  | .next u => some (view u)
  | .fault _ => none
  | .refused _ => none

/-- The bank with A and F. -/
def af (a f : Byte) : Bank := { Bank.zero with a := a, f := f }

/-- The bank with H and L. -/
def hl (h l : Byte) : Bank := { Bank.zero with h := h, l := l }

/-- V1. -/
theorem test_ldRR_copies :
    after (start [0x78] { Bank.zero with b := 0x12 }) (fun u => (u.main.a, u.main.b, u.pc)) =
      some (0x12, 0x12, 0x0001) := by decide

/-- V3. -/
theorem test_ldRR_h_l :
    after (start [0x65] (hl 0x20 0x05)) (fun u => (u.main.h, u.main.l)) = some (0x05, 0x05) := by decide

/-- V4. -/
theorem test_ldRN :
    after (start [0x06, 0xFF] (af 0 0xFF)) (fun u => (u.main.b, u.main.f, u.pc)) = some (0xFF, 0xFF, 0x0002) := by decide

/-- S1. -/
theorem test_ldRN_source_example :
    after (start [0x3E, 0x42] Bank.zero) (fun u => (u.main.a, u.main.f, u.pc)) = some (0x42, 0x00, 0x0002) := by decide

/-- V5. -/
theorem test_ldRHl :
    after (withRam 0x0010 0x9C (start [0x4E] (hl 0x00 0x10))) (fun u => (u.main.c, u.pc)) = some (0x9C, 0x0001) := by decide

/-- V6: the address is read before H is written. -/
theorem test_ldRHl_h :
    after (withRam 0x0010 0x9C (start [0x66] (hl 0x00 0x10))) (fun u => (u.main.h, u.main.l)) = some (0x9C, 0x10) := by decide

/-- V7. -/
theorem test_ldHlR_last_byte :
    after (start [0x70] { hl 0x1F 0xFF with b := 0x3C }) (fun u => u.byteAt .ram 0x1FFF) = some 0x3C := by decide

/-- V8. -/
theorem test_ldHlR_outOfRange :
    after (start [0x77] { hl 0x20 0x00 with a := 0x3C }) (fun u => (u.ram, u.report.conditions)) =
      some ([], [⟨.ram, 0x2000, .write⟩]) := by decide

/-- V10. -/
theorem test_ldRIxD :
    after (withRam 0x0105 0x5A { start [0xDD, 0x46, 0x05] Bank.zero with ix := 0x0100 }) (fun u => (u.main.b, u.pc)) =
      some (0x5A, 0x0003) := by decide

/-- V12: the address is FFFF, A a drawn byte. -/
theorem test_ldRIxD_outOfRange :
    after (start [0xDD, 0x7E, 0xFF] Bank.zero) (fun u => (u.main.a, u.report.conditions)) =
      some (Config.draw 0, [⟨.ram, 0xFFFF, .read⟩]) := by rfl

/-- V11, with IY. -/
theorem test_ldRIyD_negative :
    after (withRam 0x00FF 0x11 { start [0xFD, 0x7E, 0xFF] Bank.zero with iy := 0x0100 }) (fun u => u.main.a) =
      some 0x11 := by decide

/-- V14. -/
theorem test_ldIyDR :
    after ({ start [0xFD, 0x77, 0x05] (af 0x5A 0) with iy := 0x0200 }) (fun u => (u.byteAt .ram 0x0205, u.pc)) =
      some (0x5A, 0x0003) := by decide

/-- V15: r = 4 is H itself. -/
theorem test_ldIxDR_h :
    after ({ start [0xDD, 0x74, 0x00] (hl 0x44 0) with ix := 0x0300 }) (fun u => u.byteAt .ram 0x0300) = some 0x44 := by decide

/-- V16. -/
theorem test_ldABc :
    after (withRam 0x0040 0x21 (start [0x0A] { Bank.zero with c := 0x40 })) (fun u => u.main.a) = some 0x21 := by decide

/-- V17. -/
theorem test_ldADe :
    after (withRam 0x0041 0x22 (start [0x1A] { Bank.zero with e := 0x41 })) (fun u => u.main.a) = some 0x22 := by decide

/-- V18. -/
theorem test_ldANn :
    after (withRam 0x1234 0x7E (start [0x3A, 0x34, 0x12] Bank.zero)) (fun u => (u.main.a, u.pc)) =
      some (0x7E, 0x0003) := by decide

/-- V19. -/
theorem test_ldBcA :
    after (start [0x02] { Bank.zero with a := 0x99, c := 0x40 }) (fun u => u.byteAt .ram 0x0040) = some 0x99 := by decide

/-- V20. -/
theorem test_ldDeA_outOfRange :
    after (start [0x12] { Bank.zero with a := 0x99, d := 0x20, e := 0x01 }) (fun u => (u.ram, u.pc, u.report.conditions)) =
      some ([], 0x0001, [⟨.ram, 0x2001, .write⟩]) := by decide

/-- V21. -/
theorem test_ldNnA :
    after (start [0x32, 0x00, 0x10] (af 0x55 0)) (fun u => (u.byteAt .ram 0x1000, u.pc)) = some (0x55, 0x0003) := by decide

/-- V22. -/
theorem test_ldDdNn_bc :
    after (start [0x01, 0x34, 0x12] Bank.zero) (fun u => (u.main.b, u.main.c, u.pc)) = some (0x12, 0x34, 0x0003) := by decide

/-- V23. -/
theorem test_ldDdNn_sp :
    after (start [0x31, 0x00, 0x01] Bank.zero) (fun u => u.sp) = some 0x0100 := by decide

/-- V25. -/
theorem test_pushQq_af :
    after (start [0xF5] (af 0x12 0x42)) (fun u => (u.byteAt .stack 0xFF, u.byteAt .stack 0xFE, u.sp)) =
      some (0x12, 0x42, 0x00FE) := by decide

/-- V28: the low byte's address is FFFF. -/
theorem test_pushQq_wraps :
    after ({ start [0xC5] { Bank.zero with b := 0x12, c := 0x34 } with sp := 0x0001 }) (fun u => (u.stack, u.sp, u.report.conditions)) =
      some ([(0, 0x12)], 0xFFFF, [⟨.stack, 0xFFFF, .write⟩]) := by decide

/-- V26: all of F is loaded. -/
theorem test_popQq_af :
    after (withStack 0x00FE 0xFF 0x12 (start [0xF1] Bank.zero)) (fun u => (u.main.a, u.main.f, u.sp)) =
      some (0x12, 0xFF, 0x0100) := by decide

/-- V29: E and D are two draws. -/
theorem test_popQq_outOfRange :
    after (start [0xD1] Bank.zero) (fun u => (u.draws, u.sp, u.report.conditions)) =
      some (2, 0x0102, [⟨.stack, 0x0100, .read⟩, ⟨.stack, 0x0101, .read⟩]) := by decide

/-- V30. -/
theorem test_ldIxNn :
    after (start [0xDD, 0x21, 0xCD, 0xAB] Bank.zero) (fun u => (u.ix, u.iy, u.pc)) = some (0xABCD, 0x0000, 0x0004) := by decide

/-- V30, with FD. -/
theorem test_ldIyNn :
    after (start [0xFD, 0x21, 0xCD, 0xAB] Bank.zero) (fun u => (u.ix, u.iy, u.pc)) = some (0x0000, 0xABCD, 0x0004) := by decide

/-- V31, with IX. -/
theorem test_pushIx :
    after ({ start [0xDD, 0xE5] Bank.zero with ix := 0xBEEF }) (fun u => (u.byteAt .stack 0xFF, u.byteAt .stack 0xFE, u.sp)) =
      some (0xBE, 0xEF, 0x00FE) := by decide

/-- V31. -/
theorem test_pushIy :
    after ({ start [0xFD, 0xE5] Bank.zero with iy := 0xBEEF }) (fun u => (u.byteAt .stack 0xFF, u.byteAt .stack 0xFE, u.sp, u.pc)) =
      some (0xBE, 0xEF, 0x00FE, 0x0002) := by decide

/-- V32. -/
theorem test_popIx :
    after (withStack 0x00FE 0x00 0x01 (start [0xDD, 0xE1] Bank.zero)) (fun u => (u.ix, u.sp)) = some (0x0100, 0x0100) := by decide

/-- V32, with FD. -/
theorem test_popIy :
    after (withStack 0x00FE 0x00 0x01 (start [0xFD, 0xE1] Bank.zero)) (fun u => (u.ix, u.iy, u.sp)) =
      some (0x0000, 0x0100, 0x0100) := by decide

/-- V33. -/
theorem test_exDeHl :
    after (start [0xEB] { hl 0x22 0x22 with d := 0x11, e := 0x11 }) (fun u => (u.main.d, u.main.e, u.main.h, u.main.l)) =
      some (0x22, 0x22, 0x11, 0x11) := by decide

/-- V34. -/
theorem test_exAfAf :
    after ({ start [0x08] (af 0x11 0x01) with alt := af 0x22 0x40 }) (fun u => (u.main, u.alt)) =
      some (af 0x22 0x40, af 0x11 0x01) := by decide

/-- V36. -/
theorem test_exx :
    after (start [0xD9] ⟨0x77, 0x55, 1, 2, 3, 4, 5, 6⟩) (fun u => (u.main, u.alt)) =
      some (af 0x77 0x55, ⟨0, 0, 1, 2, 3, 4, 5, 6⟩) := by decide

/-- V37. -/
theorem test_exSpHl :
    after (withStack 0x00FE 0x34 0x12 (start [0xE3] (hl 0xAB 0xCD))) (fun u => (u.main.h, u.main.l, u.stack, u.sp)) =
      some (0x12, 0x34, [(0xFE, 0xCD), (0xFF, 0xAB)], 0x00FE) := by decide

/-- V38. -/
theorem test_exSpHl_outOfRange :
    after ({ start [0xE3] (hl 0xAB 0xCD) with sp := 0x00FF, stack := [(0xFF, 0x34)] }) (fun u => (u.stack, u.report.conditions)) =
      some ([(0xFF, 0xCD)], [⟨.stack, 0x0100, .read⟩, ⟨.stack, 0x0100, .write⟩]) := by decide

/-- V42. -/
theorem test_addAN_overflow :
    after (start [0xC6, 0x01] (af 0x7F 0)) (fun u => (u.main.a, u.main.f)) = some (0x80, 0x94) := by decide

/-- V47: bits 5 and 3 are kept. -/
theorem test_addAN_clears_old_flags :
    after (start [0xC6, 0x00] (af 0x00 0xFF)) (fun u => (u.main.a, u.main.f)) = some (0x00, 0x68) := by decide

/-- V45: the source is also the destination. -/
theorem test_addAR_a :
    after (start [0x87] (af 0x44 0)) (fun u => (u.main.a, u.main.f)) = some (0x88, 0x84) := by decide

/-- V64. -/
theorem test_addAHl :
    after (withRam 0x0010 0x03 (start [0x86] { hl 0x00 0x10 with a := 0x05 })) (fun u => (u.main.a, u.main.f)) =
      some (0x08, 0x00) := by decide

/-- V50. -/
theorem test_subN_borrow :
    after (start [0xD6, 0x10] (af 0x01 0)) (fun u => (u.main.a, u.main.f)) = some (0xF1, 0x83) := by decide

/-- V54. -/
theorem test_subN_overflow :
    after (start [0xD6, 0xFF] (af 0x7F 0)) (fun u => (u.main.a, u.main.f)) = some (0x80, 0x87) := by decide

/-- V66. -/
theorem test_subR :
    after (start [0x90] { af 0x10 0 with b := 0x10 }) (fun u => (u.main.a, u.main.f)) = some (0x00, 0x42) := by decide

/-- V65. -/
theorem test_subHl_outOfRange :
    after (start [0x96] { hl 0x20 0x00 with a := 0x05 }) (fun u => (u.draws, u.report.conditions)) =
      some (1, [⟨.ram, 0x2000, .read⟩]) := by decide

/-- V57, V61 (`FLAG_MODEL` = source), V44, V52 (zilog). -/
theorem test_alu_vectors :
    alu { Config.params with flagModel := .source } true .add 0x0F 0x01 = (0x10, 0x14) ∧
    alu { Config.params with flagModel := .source } false .sub 0x01 0x10 = (0xF1, 0x90) ∧
    alu Config.params false .add 0xFF 0x01 = (0x00, 0x51) ∧ alu Config.params false .sub 0x00 0x01 = (0xFF, 0x93) := by decide

/-- V62: source keeps 0x29 of F and copies IFF2 to P/V; V55: zilog keeps 0x28. -/
theorem test_aluA_keeps :
    (aluA .sub 0x01 { State.resetWith { Config.params with flagModel := .source } with main := af 0x03 0xFF, iff2 := true }).main =
      af 0x02 0x2D ∧
    (aluA .sub 0x01 { State.reset with main := af 0x10 0x29 }).main = af 0x0F 0x3A := by decide

/-- S2. -/
theorem test_jpNn :
    after (start [0xC3, 0x00, 0x10] (af 0 0xFF)) (fun u => (u.pc, u.main.f)) = some (0x1000, 0xFF) := by decide

/-- V75. -/
theorem test_jpCcNn_pe :
    after (start [0xEA, 0x00, 0x20] (af 0 0x04)) (fun u => u.pc) = some 0x2000 := by decide

/-- V79. -/
theorem test_jpCcNn_po_ignores_c_and_n :
    after (start [0xE2, 0x00, 0x20] (af 0 0x03)) (fun u => u.pc) = some 0x2000 := by decide

/-- V67. -/
theorem test_jrE_backward :
    after (start [0x18, 0xFE] Bank.zero 0x0010) (fun u => u.pc) = some 0x0010 := by decide

/-- V69. -/
theorem test_jrE_wraps :
    after (start [0x18, 0x80] Bank.zero 0x0010) (fun u => u.pc) = some 0xFF92 := by decide

/-- V71. -/
theorem test_jrNzE_taken :
    after (start [0x20, 0x05] Bank.zero 0x0010) (fun u => u.pc) = some 0x0017 := by decide

/-- V72. -/
theorem test_jrNzE_not_taken :
    after (start [0x20, 0x05] (af 0 0x40) 0x0010) (fun u => u.pc) = some 0x0012 := by decide

/-- R245, Z set. -/
theorem test_jrZE_taken :
    after (start [0x28, 0x05] (af 0 0x40) 0x0010) (fun u => u.pc) = some 0x0017 := by decide

/-- V73. -/
theorem test_jrCE_taken :
    after (start [0x38, 0xF0] (af 0 0x01) 0x0010) (fun u => u.pc) = some 0x0002 := by decide

/-- V74. -/
theorem test_jrNcE_not_taken :
    after (start [0x30, 0xF0] (af 0 0x01) 0x0010) (fun u => u.pc) = some 0x0012 := by decide

/-- V80. -/
theorem test_callNn :
    after ({ start [0xCD, 0x0A, 0x00] Bank.zero 0x0004 with sp := 0x00FE }) (fun u => (u.stack, u.sp, u.pc)) =
      some ([(0xFC, 0x07), (0xFD, 0x00)], 0x00FC, 0x000A) := by decide

/-- V81. -/
theorem test_callNn_wraps :
    after (start [0xCD, 0x00, 0x10] Bank.zero 0xFFFD) (fun u => (u.stack, u.pc)) =
      some ([(0xFE, 0x00), (0xFF, 0x00)], 0x1000) := by decide

/-- V82. -/
theorem test_ret :
    after (withStack 0x00FC 0x07 0x00 (start [0xC9] Bank.zero)) (fun u => (u.pc, u.sp)) = some (0x0007, 0x00FE) := by decide

/-- V83. -/
theorem test_retCc_taken :
    after (withStack 0x00FC 0x07 0x00 (start [0xC8] (af 0 0x40))) (fun u => (u.pc, u.sp)) = some (0x0007, 0x00FE) := by decide

/-- V84. -/
theorem test_retCc_not_taken :
    after (withStack 0x00FC 0x07 0x00 (start [0xC8] Bank.zero 0x0030)) (fun u => (u.pc, u.sp)) =
      some (0x0031, 0x00FC) := by decide

/-- V85. -/
theorem test_di :
    after ({ start [0xF3] Bank.zero with iff1 := true, iff2 := true }) (fun u => (u.iff1, u.iff2, u.pc)) =
      some (false, false, 0x0001) := by decide

/-- V86. -/
theorem test_ei :
    after (start [0xFB] Bank.zero) (fun u => (u.iff1, u.iff2)) = some (true, true) := by decide

/-- V87: the port is 127E. -/
theorem test_inAN :
    after (start [0xDB, 0x7E] (af 0x12 0x55)) (fun u => (u.main.a, u.main.f, u.pc)) =
      some (Config.ioOracle 0 0x127E, 0x55, 0x0002) := by rfl

/-- S3. -/
theorem test_unrecognized :
    after (start [0x27] Bank.zero 0x0040) (fun u => (u.report, u.pc)) =
      some (⟨.unrecognizedOpcode [0x27] 0x0040, []⟩, 0x0041) := by decide

/-- V95. -/
theorem test_unrecognizedPrefixed :
    after (start [0xDD, 0xDD, 0x21, 0x00, 0x01] Bank.zero 0x0050) (fun u => (u.report, u.pc, u.ix)) =
      some (⟨.unrecognizedOpcode [0xDD, 0xDD] 0x0050, []⟩, 0x0052, 0) := by decide

/-- V100. -/
theorem test_fetch_wraps :
    after (placeCode 0xFFFF [0x3E, 0x42] { State.reset with pc := 0xFFFF }) (fun u => (u.main.a, u.pc)) =
      some (0x42, 0x0001) := by decide

/-- V99: past the image the opcode is a draw, reported first. -/
theorem test_fetch_past_the_image :
    fetch { State.resetWith { Config.params with imageLen := 3 } with pc := 3 } =
      (Config.draw 0, { State.resetWith { Config.params with imageLen := 3 } with
        pc := 4, draws := 1, sticky := true, report := ⟨.executed, [⟨.code, 3, .fetch⟩]⟩ }) := rfl

/-- R75, R274: the operand of LD A,n past the image is reported and drawn, and PC advances past it. -/
theorem test_operand_past_the_image :
    after (placeCode 0 [0x3E] (State.resetWith { Config.params with imageLen := 1 }))
      (fun u => (u.main.a, u.pc, u.report.conditions)) = some (Config.draw 0, 0x0002, [⟨.code, 0x0001, .fetch⟩]) := rfl

/-- R7: `PV_MASK` = 0x03 is refused. -/
theorem test_pv_mask_3_refused :
    step (State.resetWith { Config.params with pvMask := 0x03 }) = .refused .parameterOutOfRange := rfl

/-- R270: the numeric codes. -/
theorem test_condition_codes :
    (StepKind.unrecognizedOpcode [0x27] 0x0040).code = some 1 ∧ StepKind.executed.code = none ∧
    (OutOfRange.mk .ram 0x2000 .read).code = 2 := by decide

/-- R303: a short image never starts. -/
theorem test_boot_short_image : boot { Config.params with imageLen := 2 } [0x3E] = .fault .loadFailure := rfl

/-- R49: registers after reset. -/
theorem test_reset : State.reset.sp = 0x0100 ∧ State.reset.pc = 0 ∧ State.reset.main = Bank.zero := by decide

/-! ### Witnesses: states and operands that meet each statement's hypotheses -/

/-- The least and the greatest legal parameters (R6). -/
def leastParams : Params := ⟨2, 1, 0, .zilog, 0x04⟩
def greatestParams : Params := ⟨0xFFFF, 0x80000, 0xFFFF, .source, 0x04⟩

/-- For ResetGivesEveryRegisterItsValue, ResetMeetsTheInvariant, SetFlagWritesOneBit, ConditionsTestTheirFlags,
EveryStepCompletes. -/
theorem witness_legal_parameters : leastParams.valid = true ∧ greatestParams.valid = true ∧ State.reset.params.valid = true := by
  decide

/-- For StepRefusesIllegalParameters: each bound of R6 just missed. -/
theorem witness_illegal_parameters :
    { leastParams with stackSize := 1 }.valid = false ∧ { greatestParams with stackSize := 0x10000 }.valid = false ∧
    { leastParams with imageLen := 0 }.valid = false ∧ { greatestParams with imageLen := 0x80001 }.valid = false ∧
    { leastParams with pvMask := 0x03 }.valid = false := by decide

/-- For BootLoadsTheImageThenResets: just enough bytes, and one too few. -/
theorem witness_boot :
    leastParams.valid = true ∧ leastParams.imageLen ≤ [(0x76 : Byte)].length ∧ ([] : List Byte).length < leastParams.imageLen := by
  decide

/-- For DecodeOfEncodeIsTheInstruction: a term of each kind of check, and for EncodeOfDecodeIsTheBytes bytes that decode. -/
theorem witness_well_formed :
    (Instr.ldIyDR 0x05 .a).wf = true ∧ (Instr.unrecognized 0xFF).wf = true ∧ (Instr.unrecognizedPrefixed .fd 0xFD).wf = true ∧
    decode [0xFD, 0x77, 0x05, 0x99] = .ok (.ldIyDR 0x05 .a, [0x99]) := ⟨rfl, rfl, rfl, rfl⟩

/-- For UnadmittedOpcodesAreUnrecognized and UnadmittedSecondBytesAreUnrecognized: bytes on both sides. -/
theorem witness_admitted :
    (0x76 : Byte).toNat ∈ unrecognizedBytes ∧ (0x77 : Byte).toNat ∉ unrecognizedBytes ∧
    (0xDD : Byte).toNat ∉ indexedSecondBytes ∧ (0xE1 : Byte).toNat ∈ indexedSecondBytes := by decide

/-- A four-byte instruction that ends at the last byte of the image, and one whose bytes wrap from FFFF to 0000. For
StepRunsTheDecodedInstruction and PcAdvancesByTheLength. -/
theorem witness_fetchesInRange :
    ((placeCode 0 [0xDD, 0x21, 0xCD, 0xAB] (State.resetWith leastParams)).params.valid = true ∧
      FetchesInRange (placeCode 0 [0xDD, 0x21, 0xCD, 0xAB] (State.resetWith leastParams)) (.ldIxNn 0xABCD) ∧
      transfersControl (.ldIxNn 0xABCD) = false) ∧
    ((placeCode 0xFFFF [0x3E, 0x42] { State.reset with pc := 0xFFFF }).params.valid = true ∧
      FetchesInRange (placeCode 0xFFFF [0x3E, 0x42] { State.reset with pc := 0xFFFF }) (.ldRN .a 0x42) ∧
      transfersControl (.ldRN .a 0x42) = false) := ⟨⟨rfl, ⟨rfl, rfl⟩, rfl⟩, ⟨rfl, ⟨rfl, rfl⟩, rfl⟩⟩

/-- For UnrecognizedStepChangesPcOnly: both classes. -/
theorem witness_unrecognized_step :
    ((placeCode 0 [0x76] (State.resetWith leastParams)).params.valid = true ∧
      FetchesInRange (placeCode 0 [0x76] (State.resetWith leastParams)) (.unrecognized 0x76)) ∧
    ((placeCode 0 [0xED, 0x4D] (State.resetWith leastParams)).params.valid = true ∧
      FetchesInRange (placeCode 0 [0xED, 0x4D] (State.resetWith leastParams)) (.unrecognizedPrefixed .ed 0x4D)) :=
  ⟨⟨rfl, rfl, rfl⟩, ⟨rfl, rfl, rfl⟩⟩

/-- An operand byte, and a second selecting byte, past the image: reported and drawn. For OutOfRangeOpcodeFetchIsDrawn,
PcAdvancesByTheLength and UnrecognizedStepChangesPcOnly. -/
theorem witness_operand_past_the_image :
    ((placeCode 0 [0x3E] (State.resetWith leastParams)).params.valid = true ∧
      fetched (placeCode 0 [0x3E] (State.resetWith leastParams)) = .ldRN .a (Config.draw 0) ∧
      transfersControl (.ldRN .a (Config.draw 0)) = false ∧
      fetchConditions leastParams 0 2 = [⟨.code, 1, .fetch⟩]) ∧
    ((placeCode 0 [0xED] (State.resetWith leastParams)).params.valid = true ∧
      fetched (placeCode 0 [0xED] (State.resetWith leastParams)) = .unrecognizedPrefixed .ed (Config.draw 0)) :=
  ⟨⟨rfl, rfl, rfl, rfl⟩, rfl, rfl⟩

/-- For DrawsAreCountedOncePerRead: an IN whose port byte lies past the image, so one draw for the fetch and one for the port. -/
theorem witness_draws_of_a_step :
    fetched (placeCode 0 [0xDB] (State.resetWith leastParams)) = .inAN (Config.draw 0) ∧
    after (placeCode 0 [0xDB] (State.resetWith leastParams)) (fun u => (u.draws, u.report.conditions)) =
      some (2, [⟨.code, 1, .fetch⟩]) := ⟨rfl, rfl⟩

/-- For IsFlagSetTestsEveryBit: a two-bit flag byte, set and half set. -/
theorem witness_isFlagSet : isFlagSet 0x07 0x03 = true ∧ isFlagSet 0x05 0x03 = false := by decide

/-- For UnrecognizedStepReportsFetchesOnly. -/
theorem witness_unrecognized_outcome :
    ∃ u, step (start [0x76] Bank.zero) = .next u ∧ u.report.kind ≠ .executed := ⟨_, rfl, nofun⟩

/-- For OutOfRangeOpcodeFetchIsDrawn: PC at the first address past the image, and at the last address. -/
theorem witness_pc_past_the_image :
    ({ State.resetWith leastParams with pc := 1 } : State).params.valid = true ∧
    ¬ ({ State.resetWith leastParams with pc := 1 } : State).pc.toNat < leastParams.imageLen ∧
    ¬ ({ State.resetWith leastParams with pc := 0xFFFF } : State).pc.toNat < leastParams.imageLen := by decide

/-- For StepKeepsTheInvariant, CodeVramAndParametersNeverChange, InterruptAndRefreshRegistersNeverChange, StepIgnoresUnreadState
and ZilogStepIgnoresInterruptFlipFlops: a storing step from a state that meets the invariant. -/
theorem witness_step :
    Invariant (start [0xC5] Bank.zero) ∧ (start [0xC5] Bank.zero).params.flagModel = .zilog ∧
    ∃ u, step (start [0xC5] Bank.zero) = .next u := ⟨by decide, rfl, _, rfl⟩

/-- For DrawsAreCountedOncePerRead and OnlyListedRegistersChange: a meaning that completes. -/
theorem witness_exec :
    RegName.b ∉ writes (.inAN 0x7E) ∧ ∃ u, exec (.inAN 0x7E) State.reset = .next u :=
  ⟨by decide, _, rfl⟩

/-- For OnlyStoredBytesChange: a byte beside the two a push stores. -/
theorem witness_byte_not_stored :
    (Space.stack, 0xFD) ∉ storesTo (.pushQq .bc) State.reset ∧ ∃ u, exec (.pushQq .bc) State.reset = .next u :=
  ⟨by decide, _, rfl⟩

/-- For MemReadReportsOutOfRange, MemWriteSetsOneByteOrReports, LdRegFromRam, LdRamFromReg, AddSubFromRam and their like: the last
address in range of each space and the first out of it. -/
theorem witness_address_ranges :
    (0x1FFF : Word).toNat < spaceSize Config.params .ram ∧ ¬ (0x2000 : Word).toNat < spaceSize Config.params .ram ∧
    (0x3FFF : Word).toNat < spaceSize Config.params .vram ∧ ¬ (0x4000 : Word).toNat < spaceSize Config.params .vram ∧
    (0x00FF : Word).toNat < spaceSize Config.params .stack ∧ ¬ (0x0100 : Word).toNat < spaceSize Config.params .stack ∧
    (0x0000 : Word).toNat < spaceSize leastParams .code ∧ ¬ (0x0001 : Word).toNat < spaceSize leastParams .code := by decide

/-- For LdRegFromRam, LdAccumulatorFromRam, LdRamFromReg, LdRamFromAccumulator and AddSubFromRam: register contents that give the
last address of RAM and the first past it. -/
theorem witness_hl_at_the_end_of_ram :
    (cat (hl 0x1F 0xFF).h (hl 0x1F 0xFF).l).toNat < 0x2000 ∧ ¬ (cat (hl 0x20 0x00).h (hl 0x20 0x00).l).toNat < 0x2000 ∧
    ((0x1F80 : Word) + sext16 0x7F).toNat < 0x2000 ∧ ¬ ((0x0000 : Word) + sext16 0xFF).toNat < 0x2000 := by decide

/-- For PopUndoesPush, PushThenPopRestoresThePair and CallThenReturnComesBack: both ends of 2 ≤ SP ≤ `STACK_SIZE`. -/
theorem witness_sp_in_range :
    (({ State.reset with sp := 2 } : State).params.valid = true ∧ 2 ≤ ({ State.reset with sp := 2 } : State).sp.toNat ∧
      ({ State.reset with sp := 2 } : State).sp.toNat ≤ ({ State.reset with sp := 2 } : State).params.stackSize) ∧
    (State.reset.params.valid = true ∧ 2 ≤ State.reset.sp.toNat ∧ State.reset.sp.toNat ≤ State.reset.params.stackSize) := by
  decide

/-- For ExchangeTwiceRestores. -/
theorem witness_exchange : Instr.exx ∈ [Instr.exDeHl, .exAfAf, .exx] := by decide

/-- For ZilogAddResultAndFlags, ZilogSubResultAndFlags, CarryAndOverflowReportTheExactResult and SourceResultAndFlags. -/
theorem witness_flag_models :
    leastParams.valid = true ∧ leastParams.flagModel = .zilog ∧ greatestParams.valid = true ∧ greatestParams.flagModel = .source := by
  decide

/-- For SetFlagWritesOneBit: a bit of F that is not the flag's. -/
theorem witness_other_bit_of_f : (flagMask leastParams .pv).getLsbD 1 = false := by decide

/-- For ReturnsPopThePc: a state in which RET Z returns, and one in which it does not. -/
theorem witness_conditions :
    (start [0xC8] (af 0 0x40)).cond .z = true ∧ (start [0xC8] Bank.zero).cond .z = false := by decide

end Sys2Proof.Tests
end

section
/-! 00_scope.md R8, R9: the address of (X+d), read as an integer. -/

namespace Sys2Proof

/-- 00_scope.md R8, R9: adding the extension of a byte adds its signed value s8, modulo 2^16. -/
theorem add_sext16_toNat (w : Word) (e : Byte) :
    ((w + sext16 e).toNat : Int) =
      (w.toNat + (if e.toNat < 0x80 then (e.toNat : Int) else (e.toNat : Int) - 256)) % 65536 := by
  rw [BitVec.toNat_add, sext16_toNat]
  split
  · omega
  · omega -- 0xFF00 is 65536 - 256

/-- Settles O35: 40_load8.md R150 takes the address as X plus the extended displacement. -/
theorem indexedAddressIsSignedAndWraps : Obligations.IndexedAddressIsSignedAndWraps :=
  fun x d s => add_sext16_toNat (s.index x) d

end Sys2Proof
end

section
/-! 10_state.md R45, R46, 20_memory.md R70: I, R, VRAM and (with zilog flags) IFF1 and IFF2 are never read. Replacing them before an
operation is replacing them after it; for DI and EI alone the flip-flops after differ from those before. -/

namespace Sys2Proof.Machine

open Sys2Proof.Safety

/-- Contents of the fields no instruction but DI and EI touches, and none reads (IFF2 excepted with `FLAG_MODEL` = source). -/
structure Unread where
  regI : Byte
  regR : Byte
  vram : Memory
  iff1 : Bool
  iff2 : Bool

/-- The unread fields of a state. -/
def State.unread (s : State) : Unread := ⟨s.regI, s.regR, s.vram, s.iff1, s.iff2⟩

/-- The state with its unread fields replaced. -/
def State.withUnread (s : State) (v : Unread) : State :=
  { s with regI := v.regI, regR := v.regR, vram := v.vram, iff1 := v.iff1, iff2 := v.iff2 }

/-- The unread fields after an instruction: DI and EI set the flip-flops (45_system.md R260, R261). -/
def Unread.after (v : Unread) : Instr → Unread
  | .di => { v with iff1 := false, iff2 := false }
  | .ei => { v with iff1 := true, iff2 := true }
  | _ => v

@[simp] theorem State.unread_withUnread (s : State) (v : Unread) : (s.withUnread v).unread = v := rfl

@[simp] theorem State.withUnread_unread (s : State) : s.withUnread s.unread = s := rfl

/-- Replacing I, R and VRAM before an instruction is replacing them after it. -/
theorem Unread.after_replace (v : Unread) (a b : Byte) (m : Memory) (i : Instr) :
    Unread.after { v with regI := a, regR := b, vram := m } i = { v.after i with regI := a, regR := b, vram := m } := by
  unfold Unread.after
  split <;> rfl

/-- Replacing the flip-flops before an instruction affects, of the unread fields, the flip-flops after it alone. -/
theorem Unread.after_replace_iff (v : Unread) (x y : Bool) (i : Instr) :
    ∃ x' y', Unread.after { v with iff1 := x, iff2 := y } i = { v.after i with iff1 := x', iff2 := y' } := by
  unfold Unread.after
  split <;> exact ⟨_, _, rfl⟩

/-! ### Accesses -/

theorem memRead_withUnread {sp : Space} (hsp : sp ≠ .vram) (a : Word) (s : State) (v : Unread) :
    memRead sp a (s.withUnread v) = ((memRead sp a s).1, (memRead sp a s).2.withUnread v) := by
  have hb : (s.withUnread v).byteAt sp a.toNat = s.byteAt sp a.toNat := by
    cases sp with
    | vram => exact absurd rfl hsp
    | code | ram | stack => rfl
  by_cases h : a.toNat < spaceSize s.params sp
  · rw [memRead_inRange h, memRead_inRange (s := s.withUnread v) h, hb]
  · rw [memRead_outOfRange h, memRead_outOfRange (s := s.withUnread v) h]
    rfl

theorem memWrite_withUnread {sp : DataSpace} (hsp : sp ≠ .vram) (a : Word) (b : Byte) (s : State) (v : Unread) :
    memWrite sp a b (s.withUnread v) = (memWrite sp a b s).withUnread v := by
  by_cases h : a.toNat < spaceSize s.params sp.toSpace
  · rw [memWrite_inRange h, memWrite_inRange (s := s.withUnread v) h]
    cases sp with
    | vram => exact absurd rfl hsp
    | ram | stack => rfl
  · rw [memWrite_outOfRange h, memWrite_outOfRange (s := s.withUnread v) h]
    rfl

@[simp] theorem dataRead_withUnread (a : Word) (s : State) (v : Unread) :
    dataRead a (s.withUnread v) = ((dataRead a s).1, (dataRead a s).2.withUnread v) :=
  memRead_withUnread (by decide) a s v

@[simp] theorem stackRead_withUnread (a : Word) (s : State) (v : Unread) :
    stackRead a (s.withUnread v) = ((stackRead a s).1, (stackRead a s).2.withUnread v) :=
  memRead_withUnread (by decide) a s v

@[simp] theorem dataWrite_withUnread (a : Word) (b : Byte) (s : State) (v : Unread) :
    dataWrite a b (s.withUnread v) = (dataWrite a b s).withUnread v :=
  memWrite_withUnread (by decide) a b s v

@[simp] theorem stackWrite_withUnread (a : Word) (b : Byte) (s : State) (v : Unread) :
    stackWrite a b (s.withUnread v) = (stackWrite a b s).withUnread v :=
  memWrite_withUnread (by decide) a b s v

/-! ### Register updates -/

@[simp] theorem State.withUnread_main (s : State) (v : Unread) : (s.withUnread v).main = s.main := rfl
@[simp] theorem State.withUnread_sp (s : State) (v : Unread) : (s.withUnread v).sp = s.sp := rfl
@[simp] theorem State.withUnread_pc (s : State) (v : Unread) : (s.withUnread v).pc = s.pc := rfl
@[simp] theorem State.setMain_withUnread (s : State) (v : Unread) (k : Bank) :
    (s.withUnread v).setMain k = (s.setMain k).withUnread v := rfl
@[simp] theorem State.setSp_withUnread (s : State) (v : Unread) (w : Word) :
    (s.withUnread v).setSp w = (s.setSp w).withUnread v := rfl
@[simp] theorem State.setPc_withUnread (s : State) (v : Unread) (w : Word) :
    (s.withUnread v).setPc w = (s.setPc w).withUnread v := rfl

@[simp] theorem State.setPairDD_withUnread (s : State) (v : Unread) (p : PairDD) (w : Word) :
    (s.withUnread v).setPairDD p w = (s.setPairDD p w).withUnread v := by cases p <;> rfl

@[simp] theorem State.setPairQQ_withUnread (s : State) (v : Unread) (p : PairQQ) (w : Word) :
    (s.withUnread v).setPairQQ p w = (s.setPairQQ p w).withUnread v := by cases p <;> rfl

@[simp] theorem State.pairQQ_withUnread (s : State) (v : Unread) (p : PairQQ) :
    (s.withUnread v).pairQQ p = s.pairQQ p := by cases p <;> rfl

@[simp] theorem State.setIndex_withUnread (s : State) (v : Unread) (x : Index) (w : Word) :
    (s.withUnread v).setIndex x w = (s.setIndex x w).withUnread v := by cases x <;> rfl

@[simp] theorem State.cond_withUnread (s : State) (v : Unread) (cc : Cond) : (s.withUnread v).cond cc = s.cond cc := by
  cases cc <;> rfl

/-! ### Shared operations -/

theorem push16_withUnread (w : Word) (s : State) (v : Unread) :
    push16 w (s.withUnread v) = (push16 w s).withUnread v := by
  simp [push16]

@[simp] theorem pop16_withUnread (s : State) (v : Unread) :
    pop16 (s.withUnread v) = ((pop16 s).1, (pop16 s).2.withUnread v) := by
  simp [pop16]

theorem loadReg8_withUnread (t : Reg8) (a : Word) (s : State) (v : Unread) :
    loadReg8 t a (s.withUnread v) = (loadReg8 t a s).withUnread v := by
  simp [loadReg8]

theorem popToPair_withUnread (p : PairQQ) (s : State) (v : Unread) :
    popToPair p (s.withUnread v) = (popToPair p s).withUnread v := by
  simp [popToPair]

theorem popToIndex_withUnread (x : Index) (s : State) (v : Unread) :
    popToIndex x (s.withUnread v) = (popToIndex x s).withUnread v := by
  simp [popToIndex]

theorem popPc_withUnread (s : State) (v : Unread) : popPc (s.withUnread v) = (popPc s).withUnread v := by
  simp [popPc]

theorem exchangeStackHl_withUnread (s : State) (v : Unread) :
    exchangeStackHl (s.withUnread v) = (exchangeStackHl s).withUnread v := by
  simp [exchangeStackHl]

theorem jumpIf_withUnread (taken : Bool) (target : Word) (s : State) (v : Unread) :
    jumpIf taken target (s.withUnread v) = (jumpIf taken target s).withUnread v := by
  cases taken <;> rfl

/-- IFF2 does not matter to the ALU, or it is the same. -/
theorem alu_iff2_congr {p : Params} {x y : Bool} (h : p.flagModel = .zilog ∨ x = y) (op : AluOp) (a b : Byte) :
    alu p x op a b = alu p y op a b := by
  rcases h with h | rfl
  · cases op <;> simp [alu, h]
  · rfl

theorem aluA_withUnread {s : State} {v : Unread} (h : s.params.flagModel = .zilog ∨ v.iff2 = s.iff2) (op : AluOp) (b : Byte) :
    aluA op b (s.withUnread v) = (aluA op b s).withUnread v := by
  have ha : alu (s.withUnread v).params (s.withUnread v).iff2 op s.main.a b = alu s.params s.iff2 op s.main.a b :=
    alu_iff2_congr h op s.main.a b
  simp only [aluA, State.withUnread_main, ha]
  rfl

theorem aluHl_withUnread {s : State} {v : Unread} (h : s.params.flagModel = .zilog ∨ v.iff2 = s.iff2) (op : AluOp) :
    aluHl op (s.withUnread v) = (aluHl op s).withUnread v := by
  have hr : (dataRead s.hl s).2.params.flagModel = .zilog ∨ v.iff2 = (dataRead s.hl s).2.iff2 := by
    simpa [dataRead] using h
  have hd : dataRead (s.withUnread v).hl (s.withUnread v) = _ := dataRead_withUnread s.hl s v
  simp only [aluHl, hd, aluA_withUnread hr]

/-- An instruction reads none of the unread fields, IFF2 excepted where ADD and SUB copy it to P/V (43_arith.md R211): whatever they
are replaced by, the rest of its result is the same, and they stay but for DI's and EI's writes. -/
theorem exec_withUnread {i : Instr} {s u : State} {v : Unread} (h : s.params.flagModel = .zilog ∨ v.iff2 = s.iff2)
    (hu : exec i s = .next u) : exec i (s.withUnread v) = .next (u.withUnread (v.after i)) := by
  cases i <;> cases hu
  case ldRHl | ldRIxD | ldRIyD | ldABc | ldADe | ldANn => exact congrArg _ (loadReg8_withUnread _ _ s v)
  case ldHlR | ldIxDR | ldIyDR | ldBcA | ldDeA | ldNnA => exact congrArg _ (dataWrite_withUnread _ _ s v)
  case ldDdNn => exact congrArg _ (State.setPairDD_withUnread s v _ _)
  case pushQq p =>
    show Host.Outcome.next (push16 ((s.withUnread v).pairQQ p) (s.withUnread v)) = _
    rw [State.pairQQ_withUnread, push16_withUnread]
    rfl
  case pushIx | pushIy => exact congrArg _ (push16_withUnread _ s v)
  case callNn nn => exact congrArg (fun t => Host.Outcome.next (State.setPc t nn)) (push16_withUnread s.pc s v)
  case popQq => exact congrArg _ (popToPair_withUnread _ s v)
  case popIx | popIy => exact congrArg _ (popToIndex_withUnread _ s v)
  case ret => exact congrArg _ (popPc_withUnread s v)
  case retCc cc =>
    show Host.Outcome.next (if (s.withUnread v).cond cc then popPc (s.withUnread v) else s.withUnread v) = _
    rw [State.cond_withUnread, popPc_withUnread]
    split <;> rfl
  case exSpHl => exact congrArg _ (exchangeStackHl_withUnread s v)
  case addAR | addAN | subR | subN => exact congrArg _ (aluA_withUnread h _ _)
  case addAHl | subHl => exact congrArg _ (aluHl_withUnread h _)
  case jpCcNn cc _ =>
    show Host.Outcome.next (jumpIf ((s.withUnread v).cond cc) _ _) = _
    rw [State.cond_withUnread, jumpIf_withUnread]
    rfl
  case jrNzE | jrZE | jrNcE | jrCE => exact congrArg _ (jumpIf_withUnread _ _ s v)
  all_goals rfl -- register updates alone

/-- What an instruction leaves in the unread fields. -/
theorem exec_unread {i : Instr} {s u : State} (hu : exec i s = .next u) : u.unread = s.unread.after i := by
  have h := exec_withUnread (v := s.unread) (.inr rfl) hu
  rw [State.withUnread_unread, hu] at h
  exact congrArg State.unread (Host.Outcome.next.inj h)

/-! ### The step -/

theorem fetch_withUnread (s : State) (v : Unread) : fetch (s.withUnread v) = ((fetch s).1, (fetch s).2.withUnread v) := by
  have hm : memRead .code (s.withUnread v).pc (s.withUnread v) = _ := memRead_withUnread (by decide) s.pc s v
  simp only [fetch, hm]
  rfl

theorem fetchOperands_withUnread (sel : Selected) (s : State) (v : Unread) :
    fetchOperands sel (s.withUnread v) = ((fetchOperands sel s).1, (fetchOperands sel s).2.withUnread v) := by
  cases sel <;> simp [fetchOperands, fetch_withUnread]

theorem fetchInstr_withUnread (s : State) (v : Unread) :
    fetchInstr (s.withUnread v) = ((fetchInstr s).1, (fetchInstr s).2.withUnread v) := by
  simp only [fetchInstr, fetch_withUnread]
  cases decodePfx (fetch s).1 <;> simp [fetchOperands_withUnread]

theorem fetchInstr_unread (s : State) : (fetchInstr s).2.unread = s.unread := by rw [fetchInstr_frame]; rfl

theorem step_of_valid {s : State} (h : s.params.valid = true) :
    step s = exec (fetched s) (fetchInstr (beginStep s)).2 := if_pos h

/-- What a step leaves in the unread fields. -/
theorem step_unread {s u : State} (hu : step s = .next u) : u.unread = s.unread.after (fetched s) := by
  rw [exec_unread (exec_of_step hu).2, fetchInstr_unread]
  rfl

/-- A step changes neither I, R nor VRAM. -/
theorem step_regI_regR_vram {s u : State} (hu : step s = .next u) : u.regI = s.regI ∧ u.regR = s.regR ∧ u.vram = s.vram := by
  have h : u.unread = { s.unread.after (fetched s) with regI := s.regI, regR := s.regR, vram := s.vram } :=
    (step_unread hu).trans (Unread.after_replace s.unread s.regI s.regR s.vram (fetched s))
  exact ⟨congrArg Unread.regI h, congrArg Unread.regR h, congrArg Unread.vram h⟩

/-- A step reads neither the unread fields nor the report of the step before. -/
theorem step_withUnread {s u : State} {v : Unread} (rep : Report) (h : s.params.flagModel = .zilog ∨ v.iff2 = s.iff2)
    (hu : step s = .next u) :
    step (State.withUnread { s with report := rep } v) = .next (u.withUnread (v.after (fetched s))) := by
  obtain ⟨hp, he⟩ := exec_of_step hu
  have hf : fetchInstr (beginStep (State.withUnread { s with report := rep } v)) =
      (fetched s, (fetchInstr (beginStep s)).2.withUnread v) := fetchInstr_withUnread (beginStep s) v
  have hv : (fetchInstr (beginStep s)).2.params.flagModel = .zilog ∨ v.iff2 = (fetchInstr (beginStep s)).2.iff2 := by
    rw [fetchInstr_frame]
    exact h
  rw [step_of_valid (s := State.withUnread { s with report := rep } v) hp, fetched, hf]
  exact exec_withUnread hv he

end Sys2Proof.Machine

namespace Sys2Proof

open Sys2Proof.Machine Sys2Proof.Safety

/-- Settles O23: I and R are among the fields no step touches. -/
theorem interruptAndRefreshRegistersNeverChange : Obligations.InterruptAndRefreshRegistersNeverChange := by
  intro s u hu
  obtain ⟨hI, hR, -⟩ := step_regI_regR_vram hu
  exact ⟨hI, hR⟩

/-- Settles O24: I, R and VRAM are replaced, the flip-flops keep their values, so either `FLAG_MODEL` will do. -/
theorem stepIgnoresUnreadState : Obligations.StepIgnoresUnreadState := by
  intro s u vi vr m rep hu
  have h := step_withUnread (v := { s.unread with regI := vi, regR := vr, vram := m }) rep (.inr rfl) hu
  rw [Unread.after_replace, ← step_unread hu] at h
  exact h

/-- Settles O25: the flip-flops are replaced, which zilog flags permit; DI and EI alone determine what they become. -/
theorem zilogStepIgnoresInterruptFlipFlops : Obligations.ZilogStepIgnoresInterruptFlipFlops := by
  intro s u x y hz hu
  have h := step_withUnread (v := { s.unread with iff1 := x, iff2 := y }) s.report (.inl hz) hu
  obtain ⟨x', y', hv⟩ := Unread.after_replace_iff s.unread x y (fetched s)
  rw [hv, ← step_unread hu] at h
  exact ⟨x', y', h⟩

end Sys2Proof
end

section
/-! 10_state.md R37, 60_exceptions.md R272: an instruction that does not transfer control leaves PC, and every instruction adds its
conditions after those reported before it. -/

namespace Sys2Proof.Machine

open Sys2Proof.Safety

@[simp] theorem dataWrite_pc (a : Word) (b : Byte) (s : State) : (dataWrite a b s).pc = s.pc := memWrite_pc .ram a b s

@[simp] theorem push16_pc (v : Word) (s : State) : (push16 v s).pc = s.pc := by
  obtain ⟨m, hu, -⟩ := push16_spec v s
  rw [hu]
  rfl

@[simp] theorem pop16_pc (s : State) : (pop16 s).2.pc = s.pc := by rw [pop16_spec]; rfl

@[simp] theorem loadReg8_pc (t : Reg8) (a : Word) (s : State) : (loadReg8 t a s).pc = s.pc := memRead_pc .ram a s

@[simp] theorem popToPair_pc (p : PairQQ) (s : State) : (popToPair p s).pc = s.pc := by
  cases p <;> exact pop16_pc s

@[simp] theorem popToIndex_pc (x : Index) (s : State) : (popToIndex x s).pc = s.pc := by
  cases x <;> exact pop16_pc s

@[simp] theorem exchangeStackHl_pc (s : State) : (exchangeStackHl s).pc = s.pc := by
  simp [exchangeStackHl, stackRead, stackWrite]

@[simp] theorem aluHl_pc (op : AluOp) (s : State) : (aluHl op s).pc = s.pc := memRead_pc .ram s.hl s

/-- Only a jump, a call or a return writes PC. -/
theorem exec_pc {i : Instr} {s u : State} (ht : transfersControl i = false) (hu : exec i s = .next u) : u.pc = s.pc := by
  cases i <;> cases hu
  case jpNn | jpCcNn | jrE | jrNzE | jrZE | jrNcE | jrCE | callNn | ret | retCc => cases ht
  case ldDdNn p _ => cases p <;> rfl
  case pushQq | pushIx | pushIy => exact push16_pc _ s
  case popQq p => exact popToPair_pc p s
  case popIx | popIy => exact popToIndex_pc _ s
  case ldRHl | ldRIxD | ldRIyD | ldABc | ldADe | ldANn => exact loadReg8_pc _ _ s
  case ldHlR | ldIxDR | ldIyDR | ldBcA | ldDeA | ldNnA => exact dataWrite_pc _ _ s
  case exSpHl => exact exchangeStackHl_pc s
  case addAHl | subHl => exact aluHl_pc _ s
  all_goals rfl

/-- The conditions of s are the first of those of u. -/
def ReportsAfter (s u : State) : Prop := s.report.conditions <+: u.report.conditions

theorem ReportsAfter.refl (s : State) : ReportsAfter s s := List.prefix_rfl

theorem ReportsAfter.trans {s t u : State} (h : ReportsAfter s t) (h' : ReportsAfter t u) : ReportsAfter s u :=
  List.IsPrefix.trans h h'

theorem reportsAfter_memRead (sp : Space) (a : Word) (s : State) : ReportsAfter s (memRead sp a s).2 := by
  unfold ReportsAfter
  rcases memRead_report sp a s with ⟨h, -⟩ | ⟨h, -⟩
  · rw [h]
  · rw [h]
    exact List.prefix_append _ _

theorem reportsAfter_memWrite (sp : DataSpace) (a : Word) (v : Byte) (s : State) : ReportsAfter s (memWrite sp a v s) := by
  unfold ReportsAfter memWrite
  split
  · cases sp <;> exact List.prefix_rfl
  · exact List.prefix_append _ _

theorem reportsAfter_push16 (v : Word) (s : State) : ReportsAfter s (push16 v s) := by
  obtain ⟨m, hu, -⟩ := push16_spec v s
  rw [hu]
  exact List.prefix_append _ _

theorem reportsAfter_pop16 (s : State) : ReportsAfter s (pop16 s).2 := by
  rw [pop16_spec]
  exact List.prefix_append _ _

theorem reportsAfter_exchangeStackHl (s : State) : ReportsAfter s (exchangeStackHl s) :=
  (reportsAfter_memRead _ _ _).trans <| (reportsAfter_memRead _ _ _).trans <|
    (reportsAfter_memWrite _ _ _ _).trans (reportsAfter_memWrite _ _ _ _)

theorem reportsAfter_jumpIf (taken : Bool) (target : Word) (s : State) : ReportsAfter s (jumpIf taken target s) := by
  cases taken <;> exact .refl s

/-- An instruction appends its conditions to the report. -/
theorem reportsAfter_exec {i : Instr} {s u : State} (hu : exec i s = .next u) : ReportsAfter s u := by
  cases i <;> cases hu
  case ldDdNn p _ => cases p <;> exact .refl s
  case pushQq | pushIx | pushIy | callNn => exact reportsAfter_push16 _ s
  case popQq p => cases p <;> exact reportsAfter_pop16 s
  case popIx | popIy | ret => exact reportsAfter_pop16 s
  case retCc =>
    split
    · exact reportsAfter_pop16 s
    · exact .refl s
  case ldRHl | ldRIxD | ldRIyD | ldABc | ldADe | ldANn | addAHl | subHl => exact reportsAfter_memRead _ _ s
  case ldHlR | ldIxDR | ldIyDR | ldBcA | ldDeA | ldNnA => exact reportsAfter_memWrite _ _ _ s
  case exSpHl => exact reportsAfter_exchangeStackHl s
  case jpCcNn | jrNzE | jrZE | jrNcE | jrCE => exact reportsAfter_jumpIf _ _ s
  all_goals exact .refl s

end Sys2Proof.Machine

namespace Sys2Proof

open Sys2Proof.Machine Sys2Proof.Safety

/-- Settles O16: the fetch consumes the instruction's bytes, reporting those past the image, and `exec` goes on from there. -/
theorem pcAdvancesByTheLength : Obligations.PcAdvancesByTheLength := by
  intro s hp
  obtain ⟨u, hu⟩ := exec_completes (fetched s) (fetchInstr (beginStep s)).2
  obtain ⟨-, hc⟩ := fetchInstr_eq (beginStep s)
  have hr := reportsAfter_exec hu
  rw [ReportsAfter, hc] at hr
  obtain ⟨cs, hcs⟩ := hr
  refine ⟨u, (step_of_valid hp).trans hu, ⟨cs, hcs.symm⟩, fun ht => ?_⟩
  rw [exec_pc ht hu, hc]
  rfl

end Sys2Proof
end

section
/-! 10_state.md R49, R32 to R34, R40 to R42: the registers after reset, the register codes, the flags. -/

namespace Sys2Proof.Machine

/-- The ranges of 00_scope.md R6. -/
theorem Params.valid_iff (p : Params) :
    p.valid = true ↔
      2 ≤ p.stackSize ∧ p.stackSize ≤ 0xFFFF ∧ 1 ≤ p.imageLen ∧ p.imageLen ≤ 0x80000 ∧ p.pvMask = 0x04 := by
  simp [Params.valid, and_assoc]

theorem isFlagSet_iff_and (mask flag : Byte) : isFlagSet mask flag = true ↔ mask &&& flag = flag := by
  simp [isFlagSet]

theorem isFlagSet_iff_bits (mask flag : Byte) :
    isFlagSet mask flag = true ↔ ∀ j, flag.getLsbD j = true → mask.getLsbD j = true := by
  rw [isFlagSet_iff_and]
  constructor
  · intro h j hj
    rw [← h, BitVec.getLsbD_and, Bool.and_eq_true] at hj
    exact hj.1
  · intro h
    apply BitVec.eq_of_getLsbD_eq
    intro j _
    rw [BitVec.getLsbD_and]
    cases hf : flag.getLsbD j with
    | true => rw [h j hf, Bool.true_and]
    | false => rw [Bool.and_false]

@[simp] theorem getLsbD_maskIf (b : Bool) (m : Byte) (j : Nat) : (maskIf b m).getLsbD j = (b && m.getLsbD j) := by
  cases b <;> simp [maskIf]

/-- The byte `setFlag` leaves in F, bit by bit. -/
theorem getLsbD_replaceMasked (f m : Byte) (b : Bool) (j : Nat) :
    ((f &&& ~~~m) ||| maskIf b m).getLsbD j = if m.getLsbD j then b else f.getLsbD j := by
  simp only [BitVec.getLsbD_or, BitVec.getLsbD_and, BitVec.getLsbD_not, getLsbD_maskIf]
  cases m.getLsbD j with
  | true => simp
  | false =>
    cases hf : f.getLsbD j with
    | true => simp [BitVec.lt_of_getLsbD hf]
    | false => simp

/-- Every legal flag mask has a bit set. -/
theorem flagMask_has_bit {p : Params} (h : p.valid = true) (x : Flag) : ∃ j, (flagMask p x).getLsbD j = true := by
  obtain ⟨-, -, -, -, hpv⟩ := p.valid_iff.1 h
  cases x with
  | s => exact ⟨7, show (0x80 : Byte).getLsbD 7 = true by decide⟩
  | z => exact ⟨6, show (0x40 : Byte).getLsbD 6 = true by decide⟩
  | h => exact ⟨4, show (0x10 : Byte).getLsbD 4 = true by decide⟩
  | pv => exact ⟨2, by rw [flagMask, hpv]; decide⟩
  | n => exact ⟨1, show (0x02 : Byte).getLsbD 1 = true by decide⟩
  | c => exact ⟨0, show (0x01 : Byte).getLsbD 0 = true by decide⟩

/-- Testing a mask that has a bit, after writing b to its bits, gives b. -/
theorem isFlagSet_replaceMasked {m : Byte} (hm : ∃ j, m.getLsbD j = true) (f : Byte) (b : Bool) :
    isFlagSet ((f &&& ~~~m) ||| maskIf b m) m = b := by
  obtain ⟨j, hj⟩ := hm
  rw [Bool.eq_iff_iff, isFlagSet_iff_bits]
  constructor
  · intro h
    rw [← h j hj, getLsbD_replaceMasked, if_pos hj]
  · intro hb k hk
    rw [getLsbD_replaceMasked, if_pos hk, hb]

end Sys2Proof.Machine

namespace Sys2Proof

open Sys2Proof.Machine Sys2Proof.Safety

/-- Settles O50: F becomes the byte of R41, whose bits under the mask are b and whose other bits are F's. -/
theorem setFlagWritesOneBit : Obligations.SetFlagWritesOneBit := by
  intro x b s hp
  refine ⟨(s.main.f &&& ~~~flagMask s.params x) ||| maskIf b (flagMask s.params x), rfl, ?_, ?_⟩
  · exact isFlagSet_replaceMasked (flagMask_has_bit hp x) s.main.f b
  · intro j hj
    rw [getLsbD_replaceMasked, if_neg (by simp [hj])]

/-- Settles O1: SP holds `STACK_SIZE` itself because the legal range lies below 2^16. -/
theorem resetGivesEveryRegisterItsValue : Obligations.ResetGivesEveryRegisterItsValue := by
  intro p hp
  obtain ⟨-, hsize, -⟩ := p.valid_iff.1 hp
  refine ⟨fun x hx => ?_, ?_, rfl⟩
  · cases x with
    | sp => exact absurd rfl hx
    | _ => rfl
  · show (BitVec.ofNat 16 p.stackSize).toNat = p.stackSize
    rw [BitVec.toNat_ofNat, Nat.mod_eq_of_lt (by omega)]

theorem isRegisterEncodingValid_iff (code : Nat) : isRegisterEncodingValid code = true ↔ code ≤ 7 ∧ code ≠ 6 := by
  simp [isRegisterEncodingValid]

/-- The sentinel is given exactly for the codes the check refuses: every accepted code names a register. -/
theorem decodeReg8_eq_none_iff (code : Nat) : decodeReg8 code = none ↔ isRegisterEncodingValid code = false := by
  unfold decodeReg8
  cases isRegisterEncodingValid code with
  | false => simp
  | true =>
    simp only [if_true, Bool.true_eq_false, iff_false]
    split <;> exact Option.some_ne_none _

/-- Settles O10. -/
theorem registerDecodeAcceptsSevenCodes : Obligations.RegisterDecodeAcceptsSevenCodes :=
  ⟨isRegisterEncodingValid_iff, decodeReg8_eq_none_iff, rfl⟩

/-- Settles O60. -/
theorem isFlagSetTestsEveryBit : Obligations.IsFlagSetTestsEveryBit :=
  fun mask flag => ⟨isFlagSet_iff_bits mask flag, isFlagSet_iff_and mask flag, fun _ _ => rfl⟩

end Sys2Proof
end

section
/-! 20_memory.md R73 to R77, R86, 60_exceptions.md R274: what one access does, what a code byte past the image does, and what every
sequence of accesses keeps: each step is such a sequence. -/

namespace Sys2Proof.Machine

open Sys2Proof.Safety

/-! ### One access -/

theorem reportOutOfRange_eq_withConditions (sp : Space) (a : Word) (k : AccessKind) (s : State) :
    reportOutOfRange sp a k s = withConditions [⟨sp, a, k⟩] s := by
  simp [reportOutOfRange, withConditions]

theorem readKind_eq_ite (sp : Space) : readKind sp = if sp = .code then .fetch else .read := by cases sp <;> rfl

@[simp] theorem readKind_ne_write (sp : Space) : readKind sp ≠ .write := by cases sp <;> exact AccessKind.noConfusion

@[simp] theorem State.setByte_report (s : State) (sp : Space) (a : Nat) (v : Byte) : (s.setByte sp a v).report = s.report := by
  cases sp <;> rfl

/-- A write reports at most its own address. -/
theorem memWrite_report (sp : DataSpace) (a : Word) (v : Byte) (s : State) :
    (memWrite sp a v s).report.conditions = s.report.conditions ∨
    (memWrite sp a v s).report.conditions = s.report.conditions ++ [⟨sp.toSpace, a, .write⟩] := by
  by_cases h : a.toNat < spaceSize s.params sp.toSpace
  · exact .inl (by rw [memWrite_inRange h, State.setByte_report])
  · exact .inr (by rw [memWrite_outOfRange h]; rfl)

/-- A fetch that starts past the image reports its first byte first. -/
theorem fetchConditions_head? {p : Params} {a : Word} (h : ¬ a.toNat < p.imageLen) {n : Nat} (hn : 1 ≤ n) :
    (fetchConditions p a n).head? = some ⟨.code, a, .fetch⟩ := by
  obtain ⟨m, rfl⟩ := Nat.exists_eq_add_of_le' hn
  rw [fetchConditions, if_neg h, List.head?_cons]

/-! ### Sequences of accesses -/

/-- The second state comes from the first by writing registers and by memory accesses, raising UnrecognizedOpcode and n reads of the
I/O oracle (20_memory.md section 2): all that a fetch and the meaning of an instruction are made of. -/
inductive Accesses : Nat → State → State → Prop where
  | refl (s : State) : Accesses 0 s s
  | registers {n : Nat} {s t : State} {main alt : Bank} {ix iy sp pc : Word} {iff1 iff2 : Bool} (h : Accesses n s t) :
    Accesses n s { t with main := main, alt := alt, ix := ix, iy := iy, sp := sp, pc := pc, iff1 := iff1, iff2 := iff2 }
  | read {n : Nat} {s t : State} (h : Accesses n s t) (sp : Space) (a : Word) : Accesses n s (memRead sp a t).2
  | write {n : Nat} {s t : State} (h : Accesses n s t) (sp : DataSpace) (a : Word) (v : Byte) : Accesses n s (memWrite sp a v t)
  | input {n : Nat} {s t : State} (h : Accesses n s t) (port : Word) : Accesses (n + 1) s (ioRead port t).2
  | raise {n : Nat} {s t : State} (h : Accesses n s t) (bytes : List Byte) : Accesses n s (raiseUnrecognized bytes t)

/-- The reads of the I/O oracle an instruction makes (45_system.md R262). -/
def oracleReads : Instr → Nat
  | .inAN _ => 1
  | _ => 0

theorem oracleReads_eq_ite (i : Instr) : oracleReads i = if ∃ b, i = .inAN b then 1 else 0 := by
  unfold oracleReads
  split
  next b => exact (if_pos ⟨b, rfl⟩).symm
  next hi => exact (if_neg fun ⟨b, hb⟩ => hi b hb).symm

section
variable {n : Nat} {s t u : State}

/-- An access that is out of range adds its report, and a read or fetch then draws one byte; a read of the oracle draws one. -/
theorem Accesses.draws (h : Accesses n s u) : ∃ cs, u.report.conditions = s.report.conditions ++ cs ∧
    u.draws = s.draws + (cs.filter fun c => c.kind ≠ .write).length + n := by
  induction h with
  | refl => exact ⟨[], by simp⟩
  | registers _ ih => exact ih
  | raise _ _ ih => exact ih
  | input _ _ ih =>
    obtain ⟨cs, hc, hd⟩ := ih
    exact ⟨cs, hc, congrArg (· + 1) hd⟩
  | @read _ _ t _ sp a ih =>
    obtain ⟨cs, hc, hd⟩ := ih
    rcases memRead_report sp a t with ⟨hc', -, hd'⟩ | ⟨hc', -, hd'⟩
    · exact ⟨cs, hc'.trans hc, hd'.trans hd⟩
    · refine ⟨cs ++ [⟨sp, a, readKind sp⟩], by rw [hc', hc, List.append_assoc], ?_⟩
      simp [hd', hd, Nat.add_right_comm, ← Nat.add_assoc]
  | @write _ _ t _ sp a v ih =>
    obtain ⟨cs, hc, hd⟩ := ih
    rcases memWrite_report sp a v t with hc' | hc'
    · exact ⟨cs, hc'.trans hc, by rw [memWrite_draws, hd]⟩
    · exact ⟨cs ++ [⟨sp.toSpace, a, .write⟩], by rw [hc', hc, List.append_assoc], by rw [memWrite_draws, hd]; simp⟩

/-- No access changes CODE or the parameters. -/
theorem Accesses.code_params (h : Accesses n s u) : u.code = s.code ∧ u.params = s.params := by
  induction h with
  | refl => exact ⟨rfl, rfl⟩
  | registers _ ih => exact ih
  | raise _ _ ih => exact ih
  | input _ _ ih => exact ih
  | read _ sp a ih => rwa [memRead_code, memRead_params]
  | write _ sp a v ih => rwa [memWrite_code, memWrite_params]

theorem Accesses.fetch (h : Accesses n s t) : Accesses n s (fetch t).2 := (h.read .code t.pc).registers

theorem Accesses.fetchOperands (h : Accesses n s t) (sel : Selected) : Accesses n s (fetchOperands sel t).2 := by
  cases sel with
  | op => exact h
  | opByte => exact h.fetch
  | opWord => exact h.fetch.fetch

theorem Accesses.fetchInstr (h : Accesses n s t) : Accesses n s (fetchInstr t).2 := by
  simp only [Machine.fetchInstr]
  split
  · exact h.fetch.fetchOperands _
  · exact h.fetch.fetch.fetchOperands _

theorem Accesses.push16 (h : Accesses n s t) (v : Word) : Accesses n s (push16 v t) :=
  (((h.registers).write .stack _ _).registers).write .stack _ _

theorem Accesses.pop16 (h : Accesses n s t) : Accesses n s (pop16 t).2 :=
  (((h.read .stack _).registers).read .stack _).registers

theorem Accesses.popPc (h : Accesses n s t) : Accesses n s (popPc t) := h.pop16.registers

theorem Accesses.exchangeStackHl (h : Accesses n s t) : Accesses n s (exchangeStackHl t) :=
  ((((h.read .stack _).read .stack _).write .stack _ _).write .stack _ _).registers

/-- The meaning of an instruction is a sequence of accesses; IN alone reads the oracle, once. -/
theorem Accesses.exec (h : Accesses 0 s t) {i : Instr} (hu : exec i t = .next u) : Accesses (oracleReads i) s u := by
  cases i <;> cases hu
  case inAN b => exact (h.input (cat t.main.a b)).registers
  case ldDdNn p _ => cases p <;> exact h.registers
  case pushQq | pushIx | pushIy => exact h.push16 _
  case callNn => exact (h.push16 _).registers
  case popQq p => cases p <;> exact h.pop16.registers
  case popIx | popIy => exact h.pop16.registers
  case ret => exact h.popPc
  case retCc =>
    split
    · exact h.popPc
    · exact h
  case ldRHl | ldRIxD | ldRIyD | ldABc | ldADe | ldANn | addAHl | subHl => exact (h.read .ram _).registers
  case ldHlR | ldIxDR | ldIyDR | ldBcA | ldDeA | ldNnA => exact h.write .ram _ _
  case exSpHl => exact h.exchangeStackHl
  case jpCcNn | jrNzE | jrZE | jrNcE | jrCE =>
    unfold jumpIf
    split
    · exact h.registers
    · exact h
  case unrecognized | unrecognizedPrefixed => exact h.raise _
  all_goals exact h.registers -- register writes alone

/-- A step is a sequence of accesses, its fetches among them. -/
theorem accesses_of_step (hu : step s = .next u) : Accesses (oracleReads (fetched s)) (beginStep s) u :=
  (Accesses.refl (beginStep s)).fetchInstr.exec (exec_of_step hu).2

end

end Sys2Proof.Machine

namespace Sys2Proof

open Sys2Proof.Machine Sys2Proof.Safety

/-- Settles O13: the fetch consumes the bytes of the instruction it decodes, and a first byte past the image is the first report. -/
theorem outOfRangeOpcodeFetchIsDrawn : Obligations.OutOfRangeOpcodeFetchIsDrawn := by
  intro s hp
  obtain ⟨hd, hc⟩ := fetchInstr_eq (beginStep s)
  refine ⟨fun h => ⟨?_, ?_⟩, ?_, ?_⟩
  · have hb : fetchedByte (beginStep s) = Config.draw s.draws := if_neg h
    rw [fetch_eq, hb]
    simp [consumed, fetchConditions, withConditions, beginStep, Report.clear, h]
  · obtain ⟨u, hu, ⟨cs, hcs⟩, -⟩ := pcAdvancesByTheLength s hp
    have hh := fetchConditions_head? h (instr_length_bounds (fetched s)).1
    exact ⟨u, hu, by rw [hcs, List.head?_append, hh]; rfl⟩
  · rw [fetchedBytes_congr (s := s) (t := beginStep s) rfl rfl] at hd
    exact hd
  · rw [step_of_valid hp, hc]
    rfl

/-- Settles O19: an instruction, and a whole step, is a sequence of accesses. -/
theorem drawsAreCountedOncePerRead : Obligations.DrawsAreCountedOncePerRead := by
  refine ⟨fun i s u hu => ?_, fun s u hu => ?_⟩
  · rw [← oracleReads_eq_ite]
    exact ((Accesses.refl s).exec hu).draws
  · obtain ⟨cs, hc, hd⟩ := (accesses_of_step hu).draws
    rw [← oracleReads_eq_ite, hc]
    exact hd

/-- Settles O22: no access changes CODE or the parameters, and VRAM is among the fields no step touches. -/
theorem codeVramAndParametersNeverChange : Obligations.CodeVramAndParametersNeverChange := by
  intro s u hu
  obtain ⟨hcode, hparams⟩ := (accesses_of_step hu).code_params
  obtain ⟨-, -, hvram⟩ := step_regI_regR_vram hu
  exact ⟨hcode, hvram, hparams⟩

/-- Settles O26. -/
theorem memReadReportsOutOfRange : Obligations.MemReadReportsOutOfRange := by
  refine fun sp a s => ⟨memRead_inRange, fun h => ?_⟩
  rw [memRead_outOfRange h, reportOutOfRange_eq_withConditions, readKind_eq_ite]
  rfl

/-- Settles O27. -/
theorem memWriteSetsOneByteOrReports : Obligations.MemWriteSetsOneByteOrReports := by
  refine fun sp a v s => ⟨fun h => ⟨?_, fun sp' b hb => byteAt_memWrite hb v s, ?_⟩, fun h => ?_⟩
  · rw [memWrite_inRange h, byteAt_setByte, if_pos ⟨rfl, rfl⟩]
  · rw [memWrite_inRange h, State.setByte_report]
  · rw [memWrite_outOfRange h, reportOutOfRange_eq_withConditions]

end Sys2Proof
end

section
/-! 30_encoding.md R121 to R123, 60_exceptions.md R271: what the two unrecognized classes do. -/

namespace Sys2Proof.Machine

/-- 60_exceptions.md R271: raising UnrecognizedOpcode writes the kind of the report and the sticky mark, and nothing else. -/
theorem raiseUnrecognized_eq (bytes : List Byte) (s : State) :
    raiseUnrecognized bytes s = { s with
      report := ⟨.unrecognizedOpcode bytes (s.pc - BitVec.ofNat 16 bytes.length), s.report.conditions⟩, sticky := true } := rfl

theorem exec_unrecognized (op : Byte) (s : State) :
    exec (.unrecognized op) s = .next (raiseUnrecognized [op] s) := rfl

theorem exec_unrecognizedPrefixed (p : Pfx) (op2 : Byte) (s : State) :
    exec (.unrecognizedPrefixed p op2) s = .next (raiseUnrecognized [p.byte, op2] s) := rfl

end Sys2Proof.Machine

namespace Sys2Proof

open Sys2Proof.Machine

/-- Settles O59: each class raises UnrecognizedOpcode with the bytes it consumed, so pc0 is PC less one or two. -/
theorem unrecognizedInstructionsRecordTheirOutcome : Obligations.UnrecognizedInstructionsRecordTheirOutcome := by
  refine fun op p op2 s => ⟨?_, ?_⟩
  · rw [exec_unrecognized, raiseUnrecognized_eq]
    rfl
  · rw [exec_unrecognizedPrefixed, raiseUnrecognized_eq]
    rfl

end Sys2Proof
end

section
/-! 40_load8.md: the 8-bit loads. Writing one register of a bank loads it and nothing else; a load from RAM is one read and that
write, a store to RAM is one write, and each instruction does one of these at the address its rule gives (R150, R153 to R162). -/

namespace Sys2Proof.Machine

open Sys2Proof.Safety

/-! ### One register of a bank -/

/-- What a write to one register does to every read. -/
theorem Bank.get_set (k : Bank) (t q : Reg8) (v : Byte) : (k.set t v).get q = if q = t then v else k.get q := by
  cases t <;> cases q <;> rfl

/-- No 8-bit register operand is F (10_state.md R32). -/
@[simp] theorem Bank.set_f (k : Bank) (t : Reg8) (v : Byte) : (k.set t v).f = k.f := by cases t <;> rfl

theorem bankLoads_set (k : Bank) (t : Reg8) (v : Byte) : BankLoads k (k.set t v) t v :=
  ⟨(k.get_set t t v).trans (if_pos rfl), fun q h => (k.get_set t q v).trans (if_neg h), k.set_f t v⟩

/-! ### Loading from RAM and storing to RAM -/

theorem loadReg8_inRange {a : Word} {s : State} (h : a.toNat < 0x2000) (t : Reg8) :
    loadReg8 t a s = s.setReg8 t (s.byteAt .ram a.toNat) := by
  rw [loadReg8, dataRead, memRead_inRange (sp := .ram) h]

theorem loadReg8_outOfRange {a : Word} {s : State} (h : ¬ a.toNat < 0x2000) (t : Reg8) :
    loadReg8 t a s = { (withConditions [⟨.ram, a, .read⟩] s).setReg8 t (Config.draw s.draws) with draws := s.draws + 1 } := by
  rw [loadReg8, dataRead, memRead_outOfRange (sp := .ram) h, reportOutOfRange_eq_withConditions]
  rfl

theorem dataWrite_inRange {a : Word} {s : State} (h : a.toNat < 0x2000) (v : Byte) :
    dataWrite a v s = { s with ram := s.ram.set a.toNat v } :=
  memWrite_inRange (sp := .ram) h

theorem dataWrite_outOfRange {a : Word} {s : State} (h : ¬ a.toNat < 0x2000) (v : Byte) :
    dataWrite a v s = withConditions [⟨.ram, a, .write⟩] s := by
  rw [dataWrite, memWrite_outOfRange (sp := .ram) h, reportOutOfRange_eq_withConditions]
  rfl

/-- An instruction whose meaning is `loadReg8` loads its register from RAM, on both sides of the end of RAM. -/
theorem loadsFromRam_of_exec {i : Instr} {s : State} {t : Reg8} {a : Word} (hi : exec i s = .next (loadReg8 t a s)) :
    LoadsFromRam i s t a := by
  refine ⟨fun h => ⟨_, ?_, bankLoads_set s.main t _⟩, fun h => ⟨_, ?_, bankLoads_set s.main t _⟩⟩
  · rw [hi, loadReg8_inRange h]
    rfl
  · rw [hi, loadReg8_outOfRange h]
    rfl

/-- An instruction whose meaning is `dataWrite` stores to RAM, on both sides of the end of RAM. -/
theorem storesToRam_of_exec {i : Instr} {s : State} {a : Word} {v : Byte} (hi : exec i s = .next (dataWrite a v s)) :
    StoresToRam i s a v := by
  refine ⟨fun h => ⟨s.ram.set a.toNat v, ?_, s.ram.get?_set_same _ v, fun b => s.ram.get?_set_ne _ b v⟩, fun h => ?_⟩
  · rw [hi, dataWrite_inRange h]
  · rw [hi, dataWrite_outOfRange h]

end Sys2Proof.Machine

namespace Sys2Proof

open Sys2Proof.Machine

/-- Settles O29. -/
theorem ldRegRegCopies : Obligations.LdRegRegCopies :=
  fun t r s => ⟨s.main.set t (s.reg8 r), rfl, bankLoads_set s.main t (s.reg8 r)⟩

/-- Settles O30. -/
theorem ldRegImmediateLoads : Obligations.LdRegImmediateLoads :=
  fun t n s => ⟨s.main.set t n, rfl, bankLoads_set s.main t n⟩

/-- Settles O31: each meaning is one `loadReg8`, whose address is formed from the state before the write. -/
theorem ldRegFromRam : Obligations.LdRegFromRam :=
  fun _ _ _ => ⟨loadsFromRam_of_exec rfl, loadsFromRam_of_exec rfl, loadsFromRam_of_exec rfl⟩

/-- Settles O32: each meaning is one `loadReg8` of A. -/
theorem ldAccumulatorFromRam : Obligations.LdAccumulatorFromRam :=
  fun _ _ => ⟨loadsFromRam_of_exec rfl, loadsFromRam_of_exec rfl, loadsFromRam_of_exec rfl⟩

/-- Settles O33: each meaning is one `dataWrite` of the register. -/
theorem ldRamFromReg : Obligations.LdRamFromReg :=
  fun _ _ _ => ⟨storesToRam_of_exec rfl, storesToRam_of_exec rfl, storesToRam_of_exec rfl⟩

/-- Settles O34: each meaning is one `dataWrite` of A. -/
theorem ldRamFromAccumulator : Obligations.LdRamFromAccumulator :=
  fun _ _ => ⟨storesToRam_of_exec rfl, storesToRam_of_exec rfl, storesToRam_of_exec rfl⟩

/-- Settles O11: the decoder computes each word. -/
theorem writtenOutWordsDecode : Obligations.WrittenOutWordsDecode :=
  ⟨rfl, rfl, rfl, rfl, rfl, rfl, rfl, rfl, rfl, rfl⟩

end Sys2Proof
end

section
/-! 41_load16_stack.md: the 16-bit loads, PUSH and POP. Every PUSH is one `push16` and every POP one `pop16` and a register write
(R184, R185, R187, R188); a pop whose bytes are in range gives back what was pushed (R182). -/

namespace Sys2Proof.Machine

open Sys2Proof.Safety

/-! ### The register pairs -/

/-- Loading a pair qq with the value it holds changes nothing. -/
@[simp] theorem State.setPairQQ_pairQQ (s : State) (p : PairQQ) : s.setPairQQ p (s.pairQQ p) = s := by
  cases p <;> simp [State.pairQQ, State.bc, State.de, State.hl, State.af, State.setMain]

@[simp] theorem State.pairQQ_setStack (s : State) (m : Memory) (p : PairQQ) : ({ s with stack := m } : State).pairQQ p = s.pairQQ p := by
  cases p <;> rfl

/-! ### A push and a pop whose bytes are in range -/

@[simp] theorem withConditions_nil (s : State) : withConditions [] s = s := by simp [withConditions]

theorem stackConditions_inRange {s : State} {a b : Word} (ha : a.toNat < s.params.stackSize) (hb : b.toNat < s.params.stackSize)
    (k : AccessKind) : stackConditions s k [a, b] = [] := by
  simp [stackConditions, ha, hb]

theorem byteAt_stack_of_get? {s : State} {a : Nat} {v : Byte} (h : s.stack.get? a = some v) : s.byteAt .stack a = v := by
  rw [State.byteAt, State.space, h, Option.getD_some]

/-- A pop whose two bytes are in range reports and draws nothing. -/
theorem pop16_inRange {s : State} (hlo : s.sp.toNat < s.params.stackSize) (hhi : (s.sp + 1).toNat < s.params.stackSize) :
    pop16 s = (cat (s.byteAt .stack (s.sp + 1).toNat) (s.byteAt .stack s.sp.toNat), s.setSp (s.sp + 2)) := by
  rw [pop16_spec, popHi, popLo, if_pos hhi, if_pos hlo, popped, stackConditions_inRange hlo hhi, withConditions_nil]
  rfl

/-- A push whose two bytes are in range reports nothing, and leaves both bytes in STACK. -/
theorem push16_inRange {s : State} (hhi : (s.sp - 1).toNat < s.params.stackSize) (hlo : (s.sp - 2).toNat < s.params.stackSize)
    (v : Word) : ∃ m, push16 v s = { s with sp := s.sp - 2, stack := m } ∧
      (push16 v s).byteAt .stack (s.sp - 1).toNat = hiByte v ∧ (push16 v s).byteAt .stack (s.sp - 2).toNat = loByte v := by
  have hne : (s.sp - 2).toNat ≠ (s.sp - 1).toNat := by bv_omega
  obtain ⟨m, hu, hm⟩ := push16_spec v s
  rw [stackConditions_inRange hhi hlo, withConditions_nil] at hu
  rw [StackHolds, sub_two_add_one] at hm
  have hmhi : m.get? (s.sp - 1).toNat = some (hiByte v) := by rw [hm, if_pos ⟨hhi, rfl⟩]
  have hmlo : m.get? (s.sp - 2).toNat = some (loByte v) := by rw [hm, if_neg fun h => hne h.2, if_pos ⟨hlo, rfl⟩]
  rw [hu]
  exact ⟨m, rfl, byteAt_stack_of_get? hmhi, byteAt_stack_of_get? hmlo⟩

/-- 41_load16_stack.md R182: with 2 ≤ SP ≤ `STACK_SIZE` both bytes are in range, and a pop reads the two bytes the push stored. -/
theorem pop16_push16 {s : State} (h2 : 2 ≤ s.sp.toNat) (hsize : s.sp.toNat ≤ s.params.stackSize) (v : Word) :
    ∃ m, pop16 (push16 v s) = (v, { s with stack := m }) := by
  have hhi : (s.sp - 1).toNat < s.params.stackSize := by bv_omega
  have hlo : (s.sp - 2).toNat < s.params.stackSize := by bv_omega
  obtain ⟨m, hu, hbhi, hblo⟩ := push16_inRange hhi hlo v
  refine ⟨m, ?_⟩
  rw [hu] at hbhi hblo ⊢
  rw [pop16_inRange hlo (by rwa [sub_two_add_one])]
  simp only [sub_two_add_one, BitVec.sub_add_cancel, hbhi, hblo, cat_hiByte_loByte]
  rfl

/-! ### The instructions -/

theorem exec_pushQq (p : PairQQ) (s : State) : exec (.pushQq p) s = .next (push16 (s.pairQQ p) s) := rfl

theorem exec_popQq (p : PairQQ) (s : State) : exec (.popQq p) s = .next ((pop16 s).2.setPairQQ p (pop16 s).1) := rfl

/-- An instruction whose meaning is `push16` completes, with its value pushed. -/
theorem pushed_of_exec {i : Instr} {s : State} {v : Word} (hi : exec i s = .next (push16 v s)) :
    ∃ u, exec i s = .next u ∧ Pushed s u v :=
  ⟨push16 v s, hi, push16_spec v s⟩

/-- POP qq loads the pair with the two bytes popped. -/
theorem exec_popQq_popped (p : PairQQ) (s : State) :
    exec (.popQq p) s = .next ((popped s).setPairQQ p (cat (popHi s) (popLo s))) := by
  rw [exec_popQq, pop16_spec]

theorem popToIndex_popped (x : Index) (s : State) :
    popToIndex x s = (popped s).setIndex x (cat (popHi s) (popLo s)) := by
  rw [popToIndex, pop16_spec]

end Sys2Proof.Machine

namespace Sys2Proof

open Sys2Proof.Machine Sys2Proof.Safety

/-- Settles O36: the halves of nn are the pair's bytes, and joined they are nn again. -/
theorem ldPairImmediateLoads : Obligations.LdPairImmediateLoads :=
  fun nn _ => ⟨rfl, rfl, rfl, rfl, cat_hiByte_loByte nn⟩

/-- Settles O37. -/
theorem ldIndexImmediateLoads : Obligations.LdIndexImmediateLoads :=
  fun _ _ => ⟨rfl, rfl⟩

/-- Settles O38: each meaning is one `push16` of the pair or of the index register. -/
theorem pushStoresHighThenLow : Obligations.PushStoresHighThenLow :=
  fun _ => ⟨pushed_of_exec rfl, pushed_of_exec rfl, pushed_of_exec rfl, pushed_of_exec rfl, pushed_of_exec rfl, pushed_of_exec rfl⟩

/-- Settles O39: each meaning is one `pop16` and a write of the popped value, whose halves are the two bytes read. -/
theorem popLoadsLowThenHigh : Obligations.PopLoadsLowThenHigh := by
  intro s
  simp only [exec_popQq_popped, State.setPairQQ_bc, State.setPairQQ_de, State.setPairQQ_hl, State.setPairQQ_af, State.setBc_eq,
    State.setDe_eq, State.setHl_eq, State.setAf_eq, hiByte_cat, loByte_cat]
  exact ⟨rfl, rfl, rfl, rfl, congrArg _ (popToIndex_popped .ix s), congrArg _ (popToIndex_popped .iy s)⟩

/-- Settles O40: the pop gives back the pair's own value, and loading the pair with that changes nothing. -/
theorem pushThenPopRestoresThePair : Obligations.PushThenPopRestoresThePair := by
  intro p s _ h2 hsize
  obtain ⟨m, hm⟩ := pop16_push16 h2 hsize (s.pairQQ p)
  refine ⟨push16 (s.pairQQ p) s, m, exec_pushQq p s, ?_⟩
  rw [exec_popQq, hm, ← State.pairQQ_setStack s m, State.setPairQQ_pairQQ]

end Sys2Proof
end

section
/-! 42_exchange.md: the exchanges. The three register exchanges are their own inverses (R200 to R202); EX (SP),HL is the two reads of a
pop, the two writes of a push and a load of HL, with SP left alone (R203). -/

namespace Sys2Proof.Machine

open Sys2Proof.Safety

/-! ### The register exchanges -/

theorem exec_exDeHl (s : State) : exec .exDeHl s =
    .next { s with main := { s.main with d := s.main.h, e := s.main.l, h := s.main.d, l := s.main.e } } := by
  show Host.Outcome.next ((s.setDe s.hl).setHl s.de) = _
  simp only [State.setDe_eq, State.setHl_eq, State.hl, State.de, hiByte_cat, loByte_cat]
  rfl

/-! ### Stack accesses in a row -/

theorem withConditions_withConditions (cs cs' : List OutOfRange) (s : State) :
    withConditions cs' (withConditions cs s) = withConditions (cs ++ cs') s := by
  cases cs with
  | nil => simp [withConditions]
  | cons c cs => simp [withConditions]

theorem stackConditions_pair (s : State) (k : AccessKind) (a b : Word) :
    stackConditions s k [a, b] = stackConditions s k [a] ++ stackConditions s k [b] := by
  rw [stackConditions, stackConditions, stackConditions, ← List.map_append, ← List.filter_append, List.singleton_append]

theorem stackConditions_singleton (s : State) (k : AccessKind) (a : Word) :
    stackConditions s k [a] = if a.toNat < s.params.stackSize then [] else [⟨.stack, a, k⟩] := by
  split
  next h => simp [stackConditions, h]
  next h => simp [stackConditions, h]

/-- What a stack read answers, and what it reports and draws. -/
theorem stackRead_eq (a : Word) (s : State) : stackRead a s =
    (if a.toNat < s.params.stackSize then s.byteAt .stack a.toNat else Config.draw s.draws,
      { withConditions (stackConditions s .read [a]) s with draws := s.draws + (stackConditions s .read [a]).length }) := by
  rw [stackConditions_singleton]
  by_cases h : a.toNat < s.params.stackSize
  · rw [stackRead, memRead_inRange (sp := .stack) h, if_pos h, if_pos h, withConditions_nil]
    rfl
  · rw [stackRead, memRead_outOfRange (sp := .stack) h, if_neg h, if_neg h, reportOutOfRange_eq_withConditions]
    rfl

/-- The space m of size n after a write: a byte out of range is lost. -/
def Memory.setBelow (n : Nat) (m : Memory) (a : Word) (v : Byte) : Memory :=
  if a.toNat < n then m.set a.toNat v else m

theorem Memory.get?_setBelow (n : Nat) (m : Memory) (a : Word) (v : Byte) (b : Nat) :
    (m.setBelow n a v).get? b = if b < n ∧ b = a.toNat then some v else m.get? b := by
  unfold Memory.setBelow
  by_cases h : a.toNat < n
  · rw [if_pos h, Memory.get?_set]
    exact if_congr ⟨fun hb => ⟨hb ▸ h, hb⟩, And.right⟩ rfl rfl
  · rw [if_neg h, if_neg fun ⟨hn, hb⟩ => h (hb ▸ hn)]

/-- What a stack write stores and reports. -/
theorem stackWrite_eq (a : Word) (v : Byte) (s : State) : stackWrite a v s =
    { withConditions (stackConditions s .write [a]) s with stack := s.stack.setBelow s.params.stackSize a v } := by
  rw [stackConditions_singleton, Memory.setBelow]
  by_cases h : a.toNat < s.params.stackSize
  · rw [stackWrite, memWrite_inRange (sp := .stack) h, if_pos h, if_pos h, withConditions_nil]
    rfl
  · rw [stackWrite, memWrite_outOfRange (sp := .stack) h, if_neg h, if_neg h, reportOutOfRange_eq_withConditions]
    rfl

/-- The high byte is stored first; the low byte's address differs from its, so both are held. -/
theorem stackHolds_setBelow (s : State) (a : Word) (h l : Byte) :
    StackHolds s ((s.stack.setBelow s.params.stackSize (a + 1) h).setBelow s.params.stackSize a l) a (cat h l) := by
  have hne : (a + 1).toNat ≠ a.toNat := by bv_omega
  intro b
  rw [Memory.get?_setBelow, Memory.get?_setBelow, hiByte_cat, loByte_cat]
  generalize (a + 1).toNat = a1 at hne
  by_cases hb : b = a1
  · subst hb
    simp [hne]
  · simp [hb]

/-! ### EX (SP),HL -/

/-- EX (SP),HL first reads the two bytes a pop reads, and leaves SP. -/
theorem stackRead_stackRead (s : State) :
    stackRead (s.sp + 1) (stackRead s.sp s).2 = (popHi s, { popped s with sp := s.sp }) := by
  have hd : s.draws + (stackConditions s .read [s.sp]).length =
      if s.sp.toNat < s.params.stackSize then s.draws else s.draws + 1 := by
    rw [stackConditions_singleton]
    split <;> rfl
  rw [stackRead_eq, stackRead_eq]
  refine Prod.ext ?_ ?_
  · exact congrArg (fun n => if (s.sp + 1).toNat < s.params.stackSize then _ else Config.draw n) hd
  · rw [popped, stackConditions_pair, ← withConditions_withConditions, List.length_append, ← Nat.add_assoc]
    rfl

/-- EX (SP),HL then writes the old HL, high byte first. -/
theorem stackWrite_stackWrite (a b : Word) (h l : Byte) (s : State) :
    stackWrite b l (stackWrite a h s) = { withConditions (stackConditions s .write [a, b]) s with
      stack := (s.stack.setBelow s.params.stackSize a h).setBelow s.params.stackSize b l } := by
  rw [stackWrite_eq, stackWrite_eq, stackConditions_pair, ← withConditions_withConditions]
  rfl

theorem exec_exSpHl (s : State) : exec .exSpHl s = .next
    ((stackWrite s.sp s.main.l (stackWrite (s.sp + 1) s.main.h (stackRead (s.sp + 1) (stackRead s.sp s).2).2)).setHl
      (cat (stackRead (s.sp + 1) (stackRead s.sp s).2).1 (stackRead s.sp s).1)) := rfl

end Sys2Proof.Machine

namespace Sys2Proof

open Sys2Proof.Machine Sys2Proof.Safety

/-- Settles O41. -/
theorem exchangesSwapContents : Obligations.ExchangesSwapContents :=
  fun s => ⟨exec_exDeHl s, rfl, rfl⟩

/-- Settles O42: the second exchange writes each register back where it came from. -/
theorem exchangeTwiceRestores : Obligations.ExchangeTwiceRestores := by
  intro i s hi
  simp only [List.mem_cons, List.not_mem_nil, or_false] at hi
  rcases hi with rfl | rfl | rfl
  · exact ⟨_, exec_exDeHl s, exec_exDeHl _⟩
  · exact ⟨_, rfl, rfl⟩
  · exact ⟨_, rfl, rfl⟩

/-- Settles O43: the two reads of a pop, then the two writes, each adding its report to those before it. -/
theorem exSpHlSwapsWithTheStack : Obligations.ExSpHlSwapsWithTheStack := by
  intro s
  refine ⟨_, ?_, stackHolds_setBelow s s.sp s.main.h s.main.l⟩
  have hlo : (stackRead s.sp s).1 = popLo s := congrArg Prod.fst (stackRead_eq s.sp s)
  rw [exec_exSpHl, hlo, stackRead_stackRead, stackWrite_stackWrite, State.setHl_eq, hiByte_cat, loByte_cat,
    ← withConditions_withConditions]
  rfl

end Sys2Proof
end

section
/-! 43_arith.md: ADD and SUB. The flag byte `alu` answers holds its six flags at their own bits (R210); for each flag model the result
and the flags are those of R211 to R213; each instruction is one write-back of A and F (R214 to R219). -/

namespace Sys2Proof.Machine

open Sys2Proof.Safety

/-! ### The flag byte -/

/-- With the legal `PV_MASK` no two masks share a bit, and none names bit 5 or 3 (10_state.md R40). -/
theorem getLsbD_flagBits {p : Params} (hp : p.valid = true) (fs fz fh fv fn fc : Bool) :
    (flagBits p fs fz fh fv fn fc).getLsbD 7 = fs ∧ (flagBits p fs fz fh fv fn fc).getLsbD 6 = fz ∧
    (flagBits p fs fz fh fv fn fc).getLsbD 5 = false ∧ (flagBits p fs fz fh fv fn fc).getLsbD 4 = fh ∧
    (flagBits p fs fz fh fv fn fc).getLsbD 3 = false ∧ (flagBits p fs fz fh fv fn fc).getLsbD 2 = fv ∧
    (flagBits p fs fz fh fv fn fc).getLsbD 1 = fn ∧ (flagBits p fs fz fh fv fn fc).getLsbD 0 = fc := by
  obtain ⟨-, -, -, -, hpv⟩ := p.valid_iff.1 hp
  simp only [flagBits, flagMask, hpv, BitVec.getLsbD_or, getLsbD_maskIf]
  simp

/-! ### The ALU -/

/-- The low four bits of a byte, as a mask and as a remainder. -/
theorem toNat_and_0x0F (a : Byte) : (a &&& 0x0F).toNat = a.toNat % 16 := by
  rw [BitVec.toNat_and]
  exact Nat.and_two_pow_sub_one_eq_mod a.toNat 4

theorem ofInt_toNat_sub_toNat (a v : Byte) : BitVec.ofInt 8 (Int.ofNat a.toNat - Int.ofNat v.toNat) = a - v := by
  apply BitVec.eq_of_toNat_eq
  rw [BitVec.toNat_ofInt, BitVec.toNat_sub]
  simp only [Int.ofNat_eq_natCast]
  omega

/-- 43_arith.md R212, with the sum of the bytes as the result. -/
theorem alu_add_zilog {p : Params} (hz : p.flagModel = .zilog) (iff2 : Bool) (a v : Byte) :
    alu p iff2 .add a v = (a + v, flagBits p ((a + v).getLsbD 7) (decide (a + v = 0))
      (decide ((a &&& 0x0F).toNat + (v &&& 0x0F).toNat > 0x0F))
      (decide ((a ^^^ (a + v)) &&& (v ^^^ (a + v)) &&& 0x80 ≠ 0)) false (decide (a.toNat + v.toNat > 0xFF))) := by
  simp only [alu, hz, toNat_and_0x0F, ne_eq, decide_not]
  rfl

/-- 43_arith.md R213, with the difference of the bytes as the result. -/
theorem alu_sub_zilog {p : Params} (hz : p.flagModel = .zilog) (iff2 : Bool) (a v : Byte) :
    alu p iff2 .sub a v = (a - v, flagBits p ((a - v).getLsbD 7) (decide (a - v = 0))
      (decide ((a &&& 0x0F).toNat < (v &&& 0x0F).toNat))
      (decide ((a ^^^ v) &&& (a ^^^ (a - v)) &&& 0x80 ≠ 0)) true (decide (a.toNat < v.toNat))) := by
  simp only [alu, hz, aluSubZilog, ofInt_toNat_sub_toNat, toNat_and_0x0F, ne_eq, decide_not]
  rfl

/-- 43_arith.md R211, for both operations. -/
theorem alu_source {p : Params} (hs : p.flagModel = .source) (iff2 : Bool) (op : AluOp) (a v : Byte) :
    alu p iff2 op a v = (aluResult op a v, flagBits p ((aluResult op a v).getLsbD 7) (decide (aluResult op a v = 0))
      ((aluResult op a v).getLsbD 4) iff2 false false) := by
  simp only [alu, hs]
  rfl

theorem aluResult_eq_ite (op : AluOp) (a v : Byte) : aluResult op a v = if op = .add then a + v else a - v := by
  cases op <;> rfl

/-! ### The write-back -/

theorem keepMask_eq_ite (m : FlagModel) : keepMask m = if m = .zilog then 0x28 else 0x29 := by cases m <;> rfl

/-- 43_arith.md R210: the write-back changes A and F alone. -/
theorem aluA_eq_aluDone (op : AluOp) (v : Byte) (s : State) : aluA op v s = aluDone op v s := by
  rw [aluA, keepMask_eq_ite]
  rfl

/-- An instruction whose meaning is the write-back of the operand v completes with A and F as R210 gives them. -/
theorem aluDone_of_exec {i : Instr} {s : State} {op : AluOp} {v : Byte} (hi : exec i s = .next (aluA op v s)) :
    exec i s = .next (aluDone op v s) := by
  rw [hi, aluA_eq_aluDone]

/-! ### An operand in RAM -/

theorem dataRead_inRange {a : Word} {s : State} (h : a.toNat < 0x2000) : dataRead a s = (s.byteAt .ram a.toNat, s) :=
  memRead_inRange (sp := .ram) h

theorem dataRead_outOfRange {a : Word} {s : State} (h : ¬ a.toNat < 0x2000) :
    dataRead a s = (Config.draw s.draws, { withConditions [⟨.ram, a, .read⟩] s with draws := s.draws + 1 }) := by
  rw [dataRead, memRead_outOfRange (sp := .ram) h, reportOutOfRange_eq_withConditions]
  rfl

/-- The operand read from RAM and the state the read leaves give the whole result. -/
theorem aluHl_of_dataRead {op : AluOp} {s t : State} {v : Byte} (h : dataRead s.hl s = (v, t)) : aluHl op s = aluDone op v t := by
  rw [aluHl, h, ← aluA_eq_aluDone]

theorem exec_aluHl (op : AluOp) (s : State) : exec (if op = .add then .addAHl else .subHl) s = .next (aluHl op s) := by
  cases op <;> rfl

end Sys2Proof.Machine

namespace Sys2Proof

open Sys2Proof.Machine Sys2Proof.Safety

/-- Settles O44: the flags of R212, each at its own bit. -/
theorem zilogAddResultAndFlags : Obligations.ZilogAddResultAndFlags := by
  intro p iff2 a v hp hz
  rw [alu_add_zilog hz]
  exact ⟨BitVec.toNat_add a v, getLsbD_flagBits hp _ _ _ _ _ _⟩

/-- Settles O45: the flags of R213, each at its own bit. -/
theorem zilogSubResultAndFlags : Obligations.ZilogSubResultAndFlags := by
  intro p iff2 a v hp hz
  rw [alu_sub_zilog hz]
  refine ⟨?_, getLsbD_flagBits hp _ _ _ _ _ _⟩
  rw [BitVec.toNat_sub]
  omega

/-- Settles O46: the flags of R211, each at its own bit; N and C are never set. -/
theorem sourceResultAndFlags : Obligations.SourceResultAndFlags := by
  intro p iff2 op a v hp hs
  rw [alu_source hs]
  exact ⟨aluResult_eq_ite op a v, getLsbD_flagBits hp _ _ _ _ _ _⟩

/-- Settles O48: each meaning is one write-back. -/
theorem addSubRegisterAndImmediate : Obligations.AddSubRegisterAndImmediate :=
  fun _ _ _ => ⟨aluDone_of_exec rfl, aluDone_of_exec rfl, aluDone_of_exec rfl, aluDone_of_exec rfl⟩

/-- Settles O49: the read of RAM at HL, on both sides of the end of RAM, and the write-back on the state it leaves. -/
theorem addSubFromRam : Obligations.AddSubFromRam := by
  intro op s
  rw [exec_aluHl]
  exact ⟨fun h => congrArg _ (aluHl_of_dataRead (dataRead_inRange h)),
    fun h => congrArg _ (aluHl_of_dataRead (dataRead_outOfRange h))⟩

end Sys2Proof
end

section
/-! 44_control.md: the conditions and the transfers of control. Every flag is one bit of F (R240); a transfer writes PC alone but for the
stack access it makes: a CALL is one push of PC, a RET one pop into it (R241 to R248). -/

namespace Sys2Proof.Machine

open Sys2Proof.Safety

/-! ### The flags as bits of F -/

/-- The bit of F that holds a flag (10_state.md R40). -/
def Flag.bit : Flag → Fin 8
  | .s => 7
  | .z => 6
  | .h => 4
  | .pv => 2
  | .n => 1
  | .c => 0

/-- Every legal flag mask is the one bit of its flag. -/
theorem flagMask_eq_twoPow {p : Params} (hp : p.valid = true) (x : Flag) : flagMask p x = BitVec.twoPow 8 x.bit := by
  obtain ⟨-, -, -, -, hpv⟩ := p.valid_iff.1 hp
  cases x with
  | pv => exact hpv
  | _ => rfl

/-- Testing a one-bit mask reads that bit. -/
theorem isFlagSet_twoPow (f : Byte) (k : Fin 8) : isFlagSet f (BitVec.twoPow 8 k) = f.getLsbD k := by
  rw [Bool.eq_iff_iff, isFlagSet_iff_bits]
  simp

theorem State.flag_eq_getLsbD {s : State} (hp : s.params.valid = true) (x : Flag) : s.flag x = s.main.f.getLsbD x.bit := by
  rw [State.flag, flagMask_eq_twoPow hp, isFlagSet_twoPow]

/-! ### Jumps -/

/-- A jump writes PC alone, and leaves it past the instruction when it is not taken. -/
theorem jumpIf_eq (taken : Bool) (target : Word) (s : State) :
    jumpIf taken target s = { s with pc := if taken = true then target else s.pc } := by
  cases taken <;> rfl

/-! ### CALL and RET -/

/-- The two reads of a pop do not depend on PC. -/
theorem pop16_setPc (s : State) (v : Word) : pop16 (s.setPc v) = ((pop16 s).1, (pop16 s).2.setPc v) := by
  rw [pop16_spec, pop16_spec]
  rfl

/-- A return forgets the PC it starts from. -/
theorem popPc_setPc (s : State) (v : Word) : popPc (s.setPc v) = popPc s := by
  rw [popPc, pop16_setPc]
  rfl

theorem popPc_popped (s : State) : popPc s = { popped s with pc := cat (popHi s) (popLo s) } := by
  rw [popPc, pop16_spec]
  rfl

/-- With 2 ≤ SP ≤ `STACK_SIZE` a return takes back the address pushed. -/
theorem popPc_push16 {s : State} (h2 : 2 ≤ s.sp.toNat) (hsize : s.sp.toNat ≤ s.params.stackSize) (v : Word) :
    ∃ m, popPc (push16 v s) = { s with stack := m, pc := v } := by
  obtain ⟨m, hm⟩ := pop16_push16 h2 hsize v
  refine ⟨m, ?_⟩
  rw [popPc, hm]
  rfl

theorem exec_callNn (nn : Word) (s : State) : exec (.callNn nn) s = .next ((push16 s.pc s).setPc nn) := rfl

theorem exec_ret (s : State) : exec .ret s = .next (popPc s) := rfl

theorem exec_retCc (cc : Cond) (s : State) : exec (.retCc cc) s = .next (if s.cond cc then popPc s else s) := rfl

end Sys2Proof.Machine

namespace Sys2Proof

open Sys2Proof.Machine Sys2Proof.Safety

/-- Settles O51: each condition is its flag or the negation of it, and the flag is its bit of F. -/
theorem conditionsTestTheirFlags : Obligations.ConditionsTestTheirFlags := by
  intro s hp
  simp only [State.cond, State.flag_eq_getLsbD hp]
  exact ⟨rfl, rfl, rfl, rfl, rfl, rfl, rfl, rfl⟩

/-- Settles O52. -/
theorem absoluteJumps : Obligations.AbsoluteJumps :=
  fun cc nn s => ⟨rfl, congrArg _ (jumpIf_eq (s.cond cc) nn s)⟩

/-- Settles O53: every form jumps to PC plus the extended displacement. -/
theorem relativeJumps : Obligations.RelativeJumps :=
  fun e s => ⟨s.relative e, add_sext16_toNat s.pc e, rfl, congrArg _ (jumpIf_eq (s.cond .nz) _ s),
    congrArg _ (jumpIf_eq (s.cond .z) _ s), congrArg _ (jumpIf_eq (s.cond .nc) _ s), congrArg _ (jumpIf_eq (s.cond .c) _ s)⟩

/-- Settles O54: the state before the jump is the push of PC. -/
theorem callPushesTheReturnAddress : Obligations.CallPushesTheReturnAddress :=
  fun nn s => ⟨push16 s.pc s, exec_callNn nn s, push16_spec s.pc s⟩

/-- Settles O55: RET is one pop into PC, and RET cc is that pop or nothing. -/
theorem returnsPopThePc : Obligations.ReturnsPopThePc := by
  intro cc s
  refine ⟨?_, fun hc => ?_, fun hc => ?_⟩
  · rw [exec_ret, popPc_popped]
  · rw [exec_retCc, hc, if_pos rfl, popPc_popped]
  · rw [exec_retCc, hc, if_neg Bool.false_ne_true]

/-- Settles O56: the return takes back the pushed PC, whatever address the CALL jumped to. -/
theorem callThenReturnComesBack : Obligations.CallThenReturnComesBack := by
  intro nn s _ h2 hsize
  obtain ⟨m, hm⟩ := popPc_push16 h2 hsize s.pc
  refine ⟨_, m, exec_callNn nn s, ?_⟩
  rw [exec_ret, popPc_setPc, hm]

end Sys2Proof
end

section
/-! 45_system.md: the interrupt flip-flops and input. DI and EI write IFF1 and IFF2 alone (R260, R261); IN A,(n) is one read of the I/O
oracle into A (R262). -/

namespace Sys2Proof.Machine

/-- 45_system.md R260. -/
theorem exec_di (s : State) : exec .di s = .next { s with iff1 := false, iff2 := false } := rfl

/-- 45_system.md R261. -/
theorem exec_ei (s : State) : exec .ei s = .next { s with iff1 := true, iff2 := true } := rfl

/-- 20_memory.md R78: the port's byte at the current draw goes to A, and the draw is counted. -/
theorem inputA_eq (port : Word) (s : State) :
    inputA port s = { s with main := { s.main with a := Config.ioOracle s.draws port }, draws := s.draws + 1 } := rfl

/-- 45_system.md R262: the port is formed from A as it is before the read. -/
theorem exec_inAN (n : Byte) (s : State) : exec (.inAN n) s = .next (inputA (cat s.main.a n) s) := rfl

end Sys2Proof.Machine

namespace Sys2Proof

open Sys2Proof.Machine

/-- Settles O57. -/
theorem interruptFlipFlopInstructions : Obligations.InterruptFlipFlopInstructions :=
  fun s => ⟨exec_di s, exec_ei s⟩

/-- Settles O58: the meaning is one read of the oracle into A, at the port cat(A, n). -/
theorem inputLoadsTheOraclesByte : Obligations.InputLoadsTheOraclesByte := by
  intro n s
  rw [exec_inAN, inputA_eq]

end Sys2Proof
end

section
/-! 60_exceptions.md R271, R273: a step on bytes outside the subset. Its instruction runs with PC past the bytes it consumed, so the
PC it raises with, less their number, is the step's pc0. -/

namespace Sys2Proof.Machine

open Sys2Proof.Safety

/-- With the code bytes in the image, a step runs what they decode to, on the state with PC past them and nothing reported. -/
theorem step_of_fetchesInRange {s : State} {i : Instr} (hp : s.params.valid = true) (h : FetchesInRange s i) :
    step s = exec i (atInstr s i) := by
  have hf := fetchInstr_inRange (s := beginStep s) h
  rw [step_of_valid hp, fetched, hf]
  rfl

/-- 30_encoding.md R121 to R123: either unrecognized class raises with exactly its own bytes. -/
theorem exec_of_unrecognized {i : Instr} (hi : (∃ op, i = .unrecognized op) ∨ ∃ p op2, i = .unrecognizedPrefixed p op2) (s : State) :
    exec i s = .next (raiseUnrecognized (encode i) s) := by
  obtain ⟨op, rfl⟩ | ⟨p, op2, rfl⟩ := hi
  · exact exec_unrecognized op s
  · exact exec_unrecognizedPrefixed p op2 s

/-- Run with PC past its bytes, an unrecognized instruction reports them with the address of the first. -/
theorem exec_of_unrecognized_pastBytes {i : Instr} {t : State} {pc0 : Word}
    (hi : (∃ op, i = .unrecognized op) ∨ ∃ p op2, i = .unrecognizedPrefixed p op2) (hpc : t.pc = pc0 + BitVec.ofNat 16 i.length) :
    exec i t = .next { t with
      report := ⟨.unrecognizedOpcode (encode i) pc0, t.report.conditions⟩, sticky := true } := by
  rw [exec_of_unrecognized hi, raiseUnrecognized_eq, encode_length, hpc, BitVec.add_sub_cancel]

end Sys2Proof.Machine

namespace Sys2Proof

open Sys2Proof.Machine Sys2Proof.Safety

/-- Settles O17: the fetch leaves PC past the bytes, with nothing else changed in the image and a report and a draw for each byte
past it; the instruction then adds the outcome alone. -/
theorem unrecognizedStepChangesPcOnly : Obligations.UnrecognizedStepChangesPcOnly := by
  refine ⟨fun s i hp hf hi => ?_, fun s hp hi => ?_⟩
  · rw [step_of_fetchesInRange hp hf]
    exact exec_of_unrecognized_pastBytes hi rfl
  · obtain ⟨-, -, hstep⟩ := outOfRangeOpcodeFetchIsDrawn s hp
    rw [hstep]
    exact exec_of_unrecognized_pastBytes hi rfl

end Sys2Proof
end

section
/-! 30_encoding.md: decoding and encoding are inverse to each other on the well-formed instructions. What is unrecognized (R121 to
R123), and that every byte sequence decodes (R126), follow from these two directions. -/

namespace Sys2Proof

/-! ### What decodes is well-formed -/

theorem decode_of_decodePfx_none {op : Byte} (hp : decodePfx op = none) (tl : List Byte) :
    decode (op :: tl) = (selectOp op).complete tl := by
  simp only [decode, hp]

theorem decode_prefixed (p : Pfx) (op2 : Byte) (tl : List Byte) :
    decode (p.byte :: op2 :: tl) = (selectPrefixed p op2).complete tl := by
  simp only [decode, decodePfx_byte]

/-- What decodes was selected by its first byte or its first two, and completed with the bytes after them. -/
theorem exists_sound_of_decode {bs rest : List Byte} {i : Instr} (h : decode bs = .ok (i, rest)) :
    ∃ (hd tl : List Byte) (sel : Selected), bs = hd ++ tl ∧ sel.Sound hd ∧ sel.complete tl = .ok (i, rest) := by
  cases bs with
  | nil => cases h
  | cons op tl =>
    cases hp : decodePfx op with
    | none => exact ⟨[op], tl, selectOp op, rfl, selectOp_sound hp, (decode_of_decodePfx_none hp tl).symm.trans h⟩
    | some p =>
      obtain rfl := decodePfx_eq_some hp
      cases tl with
      | nil => cases p <;> cases h -- one byte of a second table's selector alone is truncated
      | cons op2 tl =>
        exact ⟨[p.byte, op2], tl, selectPrefixed p op2, rfl, selectPrefixed_sound p op2,
          (decode_prefixed p op2 tl).symm.trans h⟩

/-- Settles O6: the selection is sound, so completing it gives the bytes back. -/
theorem encodeOfDecodeIsTheBytes : Obligations.EncodeOfDecodeIsTheBytes := by
  intro bs rest i h
  obtain ⟨hd, tl, sel, rfl, hs, hc⟩ := exists_sound_of_decode h
  exact hs.complete hc

/-! ### What is well-formed decodes -/

/-- The two bytes of a word, low byte first, complete an instruction with that word. -/
theorem Selected.complete_opWord (k : Word → Instr) (nn : Word) (rest : List Byte) :
    (Selected.opWord k).complete (loByte nn :: hiByte nn :: rest) = .ok (k nn, rest) := by
  rw [Selected.complete, cat_hiByte_loByte]

/-- 30_encoding.md R121. -/
theorem wf_unrecognized_iff (op : Byte) : (Instr.unrecognized op).wf = true ↔ op.toNat ∈ unrecognizedBytes := by
  simp [Instr.wf]

/-- 30_encoding.md R122, R123. -/
theorem wf_unrecognizedPrefixed_iff (p : Pfx) (op2 : Byte) :
    (Instr.unrecognizedPrefixed p op2).wf = true ↔ p = .cb ∨ p = .ed ∨ op2.toNat ∉ indexedSecondBytes := by
  cases p <;> simp [Instr.wf]

theorem selectOp_unrecognized {op : Byte} (h : op.toNat ∈ unrecognizedBytes) : selectOp op = .op (.unrecognized op) := by
  have hn := (templates_none_iff op (decodePfx_of_unrecognized op h)).2 h
  rw [selectOp, Option.isNone_iff_eq_none.1 hn, Option.getD_none]

theorem selectPrefixed_unrecognized {p : Pfx} {op2 : Byte} (h : p = .cb ∨ p = .ed ∨ op2.toNat ∉ indexedSecondBytes) :
    selectPrefixed p op2 = .op (.unrecognizedPrefixed p op2) := by
  have hn (x : Index) (h : op2.toNat ∉ indexedSecondBytes) : selectIndexed x op2 = none :=
    Option.isNone_iff_eq_none.1 ((selectIndexed_none_iff x op2).2 h)
  cases p with
  | cb => rfl
  | ed => rfl
  | dd => rw [selectPrefixed, hn .ix (by simpa using h), Option.getD_none]
  | fd => rw [selectPrefixed, hn .iy (by simpa using h), Option.getD_none]

/-- The fields of an encoding are read back as the operands they were made from. -/
theorem decode_encode {i : Instr} (hi : i.wf = true) (rest : List Byte) : decode (encode i ++ rest) = .ok (i, rest) := by
  cases i
  case unrecognized op =>
    have hop := (wf_unrecognized_iff op).1 hi
    refine (decode_of_decodePfx_none (decodePfx_of_unrecognized op hop) rest).trans ?_
    rw [selectOp_unrecognized hop, Selected.complete]
  case unrecognizedPrefixed p op2 =>
    refine (decode_prefixed p op2 rest).trans ?_
    rw [selectPrefixed_unrecognized ((wf_unrecognizedPrefixed_iff p op2).1 hi), Selected.complete]
  case ldRR t r => cases t <;> cases r <;> rfl
  case ldRN t _ | ldRHl t | ldRIxD t _ | ldRIyD t _ => cases t <;> rfl
  case ldHlR r | ldIxDR _ r | ldIyDR _ r | addAR r | subR r => cases r <;> rfl
  case pushQq p | popQq p => cases p <;> rfl
  case retCc cc => cases cc <;> rfl
  case ldDdNn p nn => cases p <;> exact Selected.complete_opWord (.ldDdNn _) nn rest
  case jpCcNn cc nn => cases cc <;> exact Selected.complete_opWord (.jpCcNn _) nn rest
  case ldANn nn => exact Selected.complete_opWord .ldANn nn rest
  case ldNnA nn => exact Selected.complete_opWord .ldNnA nn rest
  case jpNn nn => exact Selected.complete_opWord .jpNn nn rest
  case callNn nn => exact Selected.complete_opWord .callNn nn rest
  case ldIxNn nn => exact Selected.complete_opWord .ldIxNn nn rest
  case ldIyNn nn => exact Selected.complete_opWord .ldIyNn nn rest
  all_goals rfl -- fixed selecting bytes, with one operand byte or none

/-- Settles O5: the selecting bytes select the constructor, and the operand bytes give its operands. -/
theorem decodeOfEncodeIsTheInstruction : Obligations.DecodeOfEncodeIsTheInstruction :=
  fun _ rest hi => decode_encode hi rest

/-! ### What is unrecognized, and totality -/

/-- Exactly the well-formed instructions are read back from their encodings. -/
theorem decode_encode_iff (i : Instr) (rest : List Byte) : decode (encode i ++ rest) = .ok (i, rest) ↔ i.wf = true :=
  ⟨fun h => (encodeOfDecodeIsTheBytes _ rest i h).1, fun hi => decode_encode hi rest⟩

/-- Settles O8: `unrecognized op` is well-formed exactly for the listed bytes, and its encoding is op. -/
theorem unadmittedOpcodesAreUnrecognized : Obligations.UnadmittedOpcodesAreUnrecognized :=
  fun op rest => (wf_unrecognized_iff op).symm.trans (decode_encode_iff (.unrecognized op) rest).symm

/-- Settles O9: `unrecognizedPrefixed p op2` is well-formed exactly for the second bytes p's table does not admit. -/
theorem unadmittedSecondBytesAreUnrecognized : Obligations.UnadmittedSecondBytesAreUnrecognized :=
  fun p op2 rest => (wf_unrecognizedPrefixed_iff p op2).symm.trans (decode_encode_iff (.unrecognizedPrefixed p op2) rest).symm

/-- Four bytes are enough: at most two select, and any two complete what they select. -/
theorem decode_total (b0 b1 b2 b3 : Byte) (rest : List Byte) : ∃ r, decode (b0 :: b1 :: b2 :: b3 :: rest) = .ok r := by
  cases hp : decodePfx b0 with
  | none =>
    rw [decode_of_decodePfx_none hp]
    exact (selectOp b0).complete_total b1 b2 (b3 :: rest)
  | some p =>
    obtain rfl := decodePfx_eq_some hp
    rw [decode_prefixed]
    exact (selectPrefixed p b1).complete_total b2 b3 rest

/-- Settles O7: the bytes left are those after the encoding of what was decoded. -/
theorem decodingIsTotal : Obligations.DecodingIsTotal := by
  intro b0 b1 b2 b3 rest
  obtain ⟨⟨i, tl⟩, h⟩ := decode_total b0 b1 b2 b3 rest
  obtain ⟨-, hbs⟩ := encodeOfDecodeIsTheBytes _ tl i h
  refine ⟨i, ?_, Machine.instr_length_bounds i⟩
  rw [h, ← hbs, ← encode_length, List.drop_left]

end Sys2Proof
end

section
/-! 00_scope.md R6, R7, 20_memory.md section 1, 70_reset_and_hazards.md: the invariant. Reset and boot meet it, and every access
keeps it, so every step does. -/

namespace Sys2Proof.Machine

open Sys2Proof.Safety

/-- After reset only CODE can break the invariant: every other space is empty and nothing is reported. -/
theorem invariant_resetWith_code {p : Params} (hp : p.valid = true) {m : Memory} (hwf : m.wf) (hbelow : m.below p.imageLen) :
    Invariant { State.resetWith p with code := m } := by
  have hempty : ∀ n, Memory.wf [] ∧ Memory.below n [] := fun n => ⟨List.Pairwise.nil, List.forall_mem_nil _⟩
  exact ⟨hp, ⟨hwf, hbelow⟩, hempty _, hempty _, hempty _, fun h => absurd rfl h⟩

theorem invariant_resetWith {p : Params} (hp : p.valid = true) : Invariant (State.resetWith p) :=
  invariant_resetWith_code hp (m := []) List.Pairwise.nil (List.forall_mem_nil _)

theorem boot_of_short {p : Params} (hp : p.valid = true) {bytes : List Byte} (h : bytes.length < p.imageLen) :
    boot p bytes = .fault .loadFailure := by
  rw [boot, if_pos hp, if_pos h]

theorem boot_of_enough {p : Params} (hp : p.valid = true) {bytes : List Byte} (h : p.imageLen ≤ bytes.length) :
    boot p bytes = .next { State.resetWith p with code := Memory.ofBytes 0 (bytes.take p.imageLen) } := by
  rw [boot, if_pos hp, if_neg (Nat.not_lt.2 h)]

theorem Memory.ofBytes_below (bs : List Byte) : (Memory.ofBytes 0 bs).below bs.length := by
  intro x hx
  simpa using (Memory.mem_ofBytes hx).2

theorem invariant_beginStep {s : State} (h : Invariant s) : Invariant (beginStep s) := by
  obtain ⟨hp, hcode, hram, hvram, hstack, -⟩ := h
  exact ⟨hp, hcode, hram, hvram, hstack, fun hr => absurd rfl hr⟩

theorem invariant_raiseUnrecognized {s : State} (h : Invariant s) (bytes : List Byte) : Invariant (raiseUnrecognized bytes s) := by
  obtain ⟨hp, hcode, hram, hvram, hstack, -⟩ := h
  exact ⟨hp, hcode, hram, hvram, hstack, fun _ => rfl⟩

/-- Every sequence of accesses keeps the invariant. -/
theorem Accesses.invariant {n : Nat} {s u : State} (h : Accesses n s u) (hs : Invariant s) : Invariant u := by
  induction h with
  | refl => exact hs
  | registers _ ih => exact invariant_setRegs (ih hs) _ _ _ _ _ _ _ _ _
  | read _ sp a ih => exact invariant_memRead (ih hs) sp a
  | write _ sp a v ih => exact invariant_memWrite (ih hs) sp a v
  | input _ _ ih => exact invariant_setRegs (ih hs) _ _ _ _ _ _ _ _ _
  | raise _ bytes ih => exact invariant_raiseUnrecognized (ih hs) bytes

end Sys2Proof.Machine

namespace Sys2Proof

open Sys2Proof.Machine Sys2Proof.Safety

/-- Settles O15: a step clears the report, and then is a sequence of accesses. -/
theorem stepKeepsTheInvariant : Obligations.StepKeepsTheInvariant :=
  fun _ _ hs hu => (accesses_of_step hu).invariant (invariant_beginStep hs)

/-- Settles O4: the loaded list is the first `IMAGE_LEN` bytes at their offsets, canonical and below `IMAGE_LEN`. -/
theorem bootLoadsTheImageThenResets : Obligations.BootLoadsTheImageThenResets := by
  intro p bytes hp
  refine ⟨fun h => ⟨_, boot_of_enough hp h, ?_, fun a ha => ?_⟩, boot_of_short hp⟩
  · have hbelow := Memory.ofBytes_below (bytes.take p.imageLen)
    rw [List.length_take_of_le h] at hbelow
    exact invariant_resetWith_code hp (Memory.ofBytes_wf 0 _) hbelow
  · rw [Memory.get?_ofBytes, if_pos a.zero_le, Nat.sub_zero, List.getElem?_take_of_lt ha]

/-- Settles O2: the parameters of log entry 1 are legal. -/
theorem resetMeetsTheInvariant : Obligations.ResetMeetsTheInvariant :=
  ⟨fun _ hp => invariant_resetWith hp, invariant_resetWith (p := Config.params) (by decide)⟩

/-- Settles O3: `PV_MASK` = 0x03 is one way to leave the ranges. -/
theorem stepRefusesIllegalParameters : Obligations.StepRefusesIllegalParameters := by
  intro s
  have hrefuse (h : ¬ s.params.valid = true) : step s = .refused .parameterOutOfRange := if_neg h
  rw [Params.valid_iff] at hrefuse
  refine ⟨hrefuse, fun h3 => hrefuse fun ⟨_, _, _, _, h4⟩ => ?_⟩
  exact absurd (h3.symm.trans h4) (by decide)

end Sys2Proof
end

section
/-! 00_scope.md section 4, 41_load16_stack.md R182: statements the laws of the step and of the stack already give. -/

namespace Sys2Proof

open Sys2Proof.Machine Sys2Proof.Safety

/-- Settles O14: no meaning faults or is refused, and legal parameters are not refused. -/
theorem everyStepCompletes : Obligations.EveryStepCompletes := by
  intro s hp
  rw [step_of_valid hp]
  exact exec_completes _ _

/-- Settles O12: a fetch in range gives what the code bytes decode to, and leaves PC past them. -/
theorem stepRunsTheDecodedInstruction : Obligations.StepRunsTheDecodedInstruction :=
  fun _ _ hp h => step_of_fetchesInRange hp h

/-- Settles O28: both bytes are in range, and the pop reads what the push stored. -/
theorem popUndoesPush : Obligations.PopUndoesPush :=
  fun v _ _ h2 hsize => pop16_push16 h2 hsize v

end Sys2Proof
end

section
/-! 60_exceptions.md R271, R275: only the unrecognized classes change the kind of the outcome, and such a step makes no access after
its fetches. -/

namespace Sys2Proof.Machine

open Sys2Proof.Safety

/-- The conditions of fetching are fetch reports of CODE. -/
theorem mem_fetchConditions {p : Params} {a : Word} {n : Nat} {c : OutOfRange} (h : c ∈ fetchConditions p a n) :
    c.space = .code ∧ c.kind = .fetch := by
  induction n generalizing a with
  | zero => cases h
  | succ n ih =>
    rw [fetchConditions] at h
    split at h
    · exact ih h
    · rcases List.mem_cons.1 h with rfl | h
      · exact ⟨rfl, rfl⟩
      · exact ih h

theorem push16_kind (v : Word) (s : State) : (push16 v s).report.kind = s.report.kind := by
  obtain ⟨m, hu, -⟩ := push16_spec v s
  rw [hu]
  rfl

theorem pop16_kind (s : State) : (pop16 s).2.report.kind = s.report.kind := by rw [pop16_spec]; rfl

/-- An admitted instruction leaves the kind of the outcome. -/
theorem exec_kind {i : Instr} {s u : State} (hu : exec i s = .next u) :
    ((∃ op, i = .unrecognized op) ∨ ∃ p op2, i = .unrecognizedPrefixed p op2) ∨ u.report.kind = s.report.kind := by
  cases i <;> cases hu
  case unrecognized op => exact .inl (.inl ⟨op, rfl⟩)
  case unrecognizedPrefixed p op2 => exact .inl (.inr ⟨p, op2, rfl⟩)
  all_goals right
  case ldDdNn p _ => cases p <;> rfl
  case pushQq | pushIx | pushIy | callNn => exact push16_kind _ s
  case popQq p => cases p <;> exact pop16_kind s
  case popIx | popIy | ret => exact pop16_kind s
  case retCc cc =>
    split
    · exact pop16_kind s
    · rfl
  case ldRHl | ldRIxD | ldRIyD | ldABc | ldADe | ldANn | addAHl | subHl => exact memRead_kind .ram _ s
  case ldHlR | ldIxDR | ldIyDR | ldBcA | ldDeA | ldNnA => exact memWrite_kind .ram _ _ s
  case exSpHl => simp [exchangeStackHl, stackRead, stackWrite]
  case jpCcNn | jrNzE | jrZE | jrNcE | jrCE => rw [jumpIf_eq]
  all_goals rfl

/-- A step that does not end in Executed fetched an unrecognized instruction. -/
theorem fetched_unrecognized_of_kind {s u : State} (hu : step s = .next u) (hk : u.report.kind ≠ .executed) :
    (∃ op, fetched s = .unrecognized op) ∨ ∃ p op2, fetched s = .unrecognizedPrefixed p op2 := by
  refine (exec_kind (exec_of_step hu).2).resolve_right fun h => hk ?_
  rw [h, fetchInstr_frame]
  rfl

end Sys2Proof.Machine

namespace Sys2Proof

open Sys2Proof.Machine Sys2Proof.Safety

/-- Settles O18: such a step ran an unrecognized instruction, so its report is that of its fetches (O17). -/
theorem unrecognizedStepReportsFetchesOnly : Obligations.UnrecognizedStepReportsFetchesOnly := by
  intro s u hu hk c hc
  have hstep := unrecognizedStepChangesPcOnly.2 s (exec_of_step hu).1 (fetched_unrecognized_of_kind hu hk)
  cases hu.symm.trans hstep
  exact mem_fetchConditions hc

end Sys2Proof
end

section
/-! 10_state.md section 9, R50: the registers an instruction writes. Each register write and each access writes the registers listed
for it, and an instruction those of its parts. -/

namespace Sys2Proof.Machine

open Sys2Proof.Safety

/-- Every register of 10_state.md R30 but PC and those of xs is the same in both states. -/
def WritesOnly (xs : List RegName) (s u : State) : Prop := ∀ x, x ∉ xs → readReg u x = readReg s x

theorem WritesOnly.refl (s : State) : WritesOnly [] s s := fun _ _ => rfl

theorem WritesOnly.trans {xs ys : List RegName} {s t u : State} (h : WritesOnly xs s t) (h' : WritesOnly ys t u) :
    WritesOnly (xs ++ ys) s u := by
  intro x hx
  rw [List.mem_append, not_or] at hx
  exact (h' x hx.2).trans (h x hx.1)

theorem WritesOnly.of_nil {xs : List RegName} {s u : State} (h : WritesOnly [] s u) : WritesOnly xs s u :=
  fun x _ => h x List.not_mem_nil

/-! ### Register writes -/

theorem writesOnly_setPc (s : State) (v : Word) : WritesOnly [] s (s.setPc v) := fun x _ => by cases x <;> rfl

/-- An update that reads as n at one register and as before at every other writes that register alone. -/
theorem writesOnly_singleton {y : RegName} {n : Nat} {s u : State} (h : ∀ x, readReg u x = if x = y then n else readReg s x) :
    WritesOnly [y] s u :=
  fun x hx => (h x).trans (if_neg (List.mem_singleton.not.1 hx))

theorem writesOnly_setReg8 (s : State) (t : Reg8) (v : Byte) : WritesOnly [regName t] s (s.setReg8 t v) :=
  writesOnly_singleton (n := v.toNat) fun x => by cases t <;> cases x <;> rfl

theorem writesOnly_setF (s : State) (v : Byte) : WritesOnly [.f] s (s.setF v) :=
  writesOnly_singleton (n := v.toNat) fun x => by cases x <;> rfl

theorem writesOnly_setSp (s : State) (v : Word) : WritesOnly [.sp] s (s.setSp v) :=
  writesOnly_singleton (n := v.toNat) fun x => by cases x <;> rfl

theorem writesOnly_setIx (s : State) (v : Word) : WritesOnly [.ix] s (s.setIndex .ix v) :=
  writesOnly_singleton (n := v.toNat) fun x => by cases x <;> rfl

theorem writesOnly_setIy (s : State) (v : Word) : WritesOnly [.iy] s (s.setIndex .iy v) :=
  writesOnly_singleton (n := v.toNat) fun x => by cases x <;> rfl

/-- A pair is written as its two registers. -/
theorem writesOnly_setPairQQ (s : State) (p : PairQQ) (v : Word) : WritesOnly (pairQQRegs p) s (s.setPairQQ p v) := by
  cases p with
  | bc => exact (writesOnly_setReg8 s .b (hiByte v)).trans (writesOnly_setReg8 _ .c (loByte v))
  | de => exact (writesOnly_setReg8 s .d (hiByte v)).trans (writesOnly_setReg8 _ .e (loByte v))
  | hl => exact (writesOnly_setReg8 s .h (hiByte v)).trans (writesOnly_setReg8 _ .l (loByte v))
  | af => exact (writesOnly_setReg8 s .a (hiByte v)).trans (writesOnly_setF _ (loByte v))

theorem writesOnly_setPairDD (s : State) (p : PairDD) (v : Word) : WritesOnly (pairDDRegs p) s (s.setPairDD p v) := by
  cases p with
  | bc => exact writesOnly_setPairQQ s .bc v
  | de => exact writesOnly_setPairQQ s .de v
  | hl => exact writesOnly_setPairQQ s .hl v
  | sp => exact writesOnly_setSp s v

theorem writesOnly_aluA (op : AluOp) (v : Byte) (s : State) : WritesOnly [.a, .f] s (aluA op v s) :=
  (writesOnly_setReg8 s .a _).trans (writesOnly_setF _ _)

theorem writesOnly_jumpIf (taken : Bool) (target : Word) (s : State) : WritesOnly [] s (jumpIf taken target s) := by
  cases taken with
  | true => exact writesOnly_setPc s target
  | false => exact .refl s

/-! ### Memory accesses -/

theorem writesOnly_memRead (sp : Space) (a : Word) (s : State) : WritesOnly [] s (memRead sp a s).2 := by
  intro x _
  rw [memRead_frame]
  cases x <;> rfl

theorem writesOnly_memWrite (sp : DataSpace) (a : Word) (v : Byte) (s : State) : WritesOnly [] s (memWrite sp a v s) := by
  intro x _
  rw [memWrite_frame]
  cases x <;> rfl

theorem writesOnly_push16 (v : Word) (s : State) : WritesOnly [.sp] s (push16 v s) := by
  obtain ⟨m, hu, -⟩ := push16_spec v s
  intro x hx
  rw [hu, ← writesOnly_setSp s (s.sp - 2) x hx]
  cases x <;> rfl

theorem writesOnly_pop16 (s : State) : WritesOnly [.sp] s (pop16 s).2 := by
  intro x hx
  rw [pop16_spec, ← writesOnly_setSp s (s.sp + 2) x hx]
  cases x <;> rfl

theorem writesOnly_popPc (s : State) : WritesOnly [.sp] s (popPc s) := (writesOnly_pop16 s).trans (writesOnly_setPc _ _)

/-! ### The instructions -/

/-- 10_state.md R50: the table lists every register an instruction writes. -/
theorem writesOnly_exec {i : Instr} {s u : State} (hu : exec i s = .next u) : WritesOnly (writes i) s u := by
  cases i <;> cases hu
  case ldRR t r => exact writesOnly_setReg8 s t _
  case ldRN t n => exact writesOnly_setReg8 s t n
  case ldRHl t | ldRIxD t _ | ldRIyD t _ => exact (writesOnly_memRead .ram _ s).trans (writesOnly_setReg8 _ t _)
  case ldABc | ldADe | ldANn => exact (writesOnly_memRead .ram _ s).trans (writesOnly_setReg8 _ .a _)
  case inAN => exact writesOnly_setReg8 s .a _
  case ldHlR | ldIxDR | ldIyDR | ldBcA | ldDeA | ldNnA => exact writesOnly_memWrite .ram _ _ s
  case ldDdNn p nn => exact writesOnly_setPairDD s p nn
  case ldIxNn nn => exact writesOnly_setIx s nn
  case ldIyNn nn => exact writesOnly_setIy s nn
  case pushQq | pushIx | pushIy => exact writesOnly_push16 _ s
  case callNn nn => exact (writesOnly_push16 _ s).trans (writesOnly_setPc _ nn)
  case popQq p => exact (writesOnly_pop16 s).trans (writesOnly_setPairQQ _ p _)
  case popIx => exact (writesOnly_pop16 s).trans (writesOnly_setIx _ _)
  case popIy => exact (writesOnly_pop16 s).trans (writesOnly_setIy _ _)
  case ret => exact writesOnly_popPc s
  case retCc =>
    split
    · exact writesOnly_popPc s
    · exact (WritesOnly.refl s).of_nil
  case exDeHl => exact (writesOnly_setPairQQ s .de _).trans (writesOnly_setPairQQ _ .hl _)
  case exAfAf =>
    intro x hx
    cases x with
    | a | f | a' | f' => exact absurd (by decide) hx
    | _ => rfl
  case exx =>
    intro x hx
    cases x with
    | a | f | a' | f' | ix | iy | sp | i | r | iff1 | iff2 => rfl
    | _ => exact absurd (by decide) hx
  case di | ei =>
    intro x hx
    cases x with
    | iff1 | iff2 => exact absurd (by decide) hx
    | _ => rfl
  case exSpHl =>
    exact ((((writesOnly_memRead .stack _ s).trans (writesOnly_memRead .stack _ _)).trans (writesOnly_memWrite .stack _ _ _)).trans
      (writesOnly_memWrite .stack _ _ _)).trans (writesOnly_setPairQQ _ .hl _)
  case addAR | addAN | subR | subN => exact writesOnly_aluA _ _ s
  case addAHl | subHl => exact (writesOnly_memRead .ram _ s).trans (writesOnly_aluA _ _ _)
  case jpNn nn => exact writesOnly_setPc s nn
  case jrE => exact writesOnly_setPc s _
  case jpCcNn | jrNzE | jrZE | jrNcE | jrCE => exact writesOnly_jumpIf _ _ s
  case unrecognized | unrecognizedPrefixed => exact fun x _ => by cases x <;> rfl

end Sys2Proof.Machine

namespace Sys2Proof

open Sys2Proof.Machine

/-- Settles O20: each meaning is a sequence of accesses and register writes, and the registers it writes are those listed. -/
theorem onlyListedRegistersChange : Obligations.OnlyListedRegistersChange :=
  fun _ _ _ x hu => writesOnly_exec hu x

end Sys2Proof
end

section
/-! 20_memory.md R70, R77: the bytes an instruction stores to. A memory write changes one byte at most, so a push and EX (SP),HL
change two, and no other operation changes any. -/

namespace Sys2Proof.Machine

open Sys2Proof.Safety

@[simp] theorem byteAt_setMain (s : State) (k : Bank) (sp : Space) (b : Nat) : (s.setMain k).byteAt sp b = s.byteAt sp b := rfl

/-- A push changes its two bytes at most. -/
theorem byteAt_push16 {sp : Space} {b : Nat} {s : State}
    (h : (sp, b) ∉ [(Space.stack, (s.sp - 1).toNat), (.stack, (s.sp - 2).toNat)]) (v : Word) :
    (push16 v s).byteAt sp b = s.byteAt sp b := by
  obtain ⟨m, hu, hm⟩ := push16_spec v s
  rw [hu]
  cases sp with
  | stack =>
    simp only [List.mem_cons, Prod.mk.injEq, true_and, List.not_mem_nil, or_false, not_or] at h
    rw [StackHolds, sub_two_add_one] at hm
    have hb : m.get? b = s.stack.get? b := by rw [hm, if_neg fun hb => h.1 hb.2, if_neg fun hb => h.2 hb.2]
    exact congrArg (Option.getD · _) hb
  | _ => rfl

theorem byteAt_pop16 (s : State) (sp : Space) (b : Nat) : (pop16 s).2.byteAt sp b = s.byteAt sp b := by
  rw [pop16_spec]
  rfl

/-- EX (SP),HL changes the two bytes at the top of the stack at most. -/
theorem byteAt_exchangeStackHl {sp : Space} {b : Nat} {s : State}
    (h : (sp, b) ∉ [(Space.stack, s.sp.toNat), (.stack, (s.sp + 1).toNat)]) :
    (exchangeStackHl s).byteAt sp b = s.byteAt sp b := by
  rw [List.mem_cons, List.mem_singleton, not_or] at h
  simp only [exchangeStackHl, stackRead, stackWrite, State.setHl_eq, byteAt_setMain]
  rw [byteAt_memWrite (sp := .stack) h.1, byteAt_memWrite (sp := .stack) h.2, byteAt_memRead, byteAt_memRead]

/-- Only the bytes an instruction stores to can change. -/
theorem exec_byteAt {i : Instr} {s u : State} {sp : Space} {b : Nat} (hu : exec i s = .next u) (hb : (sp, b) ∉ storesTo i s) :
    u.byteAt sp b = s.byteAt sp b := by
  cases i <;> cases hu
  case ldHlR | ldIxDR | ldIyDR | ldBcA | ldDeA | ldNnA =>
    exact byteAt_memWrite (sp := .ram) (List.mem_singleton.not.1 hb) _ s
  case pushQq | pushIx | pushIy | callNn => exact byteAt_push16 hb _
  case exSpHl => exact byteAt_exchangeStackHl hb
  case ldRHl | ldRIxD | ldRIyD | ldABc | ldADe | ldANn | addAHl | subHl => exact byteAt_memRead .ram _ s sp b
  case ldDdNn p _ => cases p <;> rfl
  case popQq p => cases p <;> exact byteAt_pop16 s sp b
  case popIx | popIy | ret => exact byteAt_pop16 s sp b
  case retCc =>
    split
    · exact byteAt_pop16 s sp b
    · rfl
  case jpCcNn | jrNzE | jrZE | jrNcE | jrCE =>
    rw [jumpIf_eq]
    rfl
  all_goals rfl -- no memory access

end Sys2Proof.Machine

namespace Sys2Proof

open Sys2Proof.Machine

/-- Settles O21: each meaning writes memory at the listed addresses alone. -/
theorem onlyStoredBytesChange : Obligations.OnlyStoredBytesChange :=
  fun _ _ _ _ _ hu hb => exec_byteAt hu hb

end Sys2Proof
end

section
/-! 43_arith.md section 4: what C and V say about the exact result (R220). -/

namespace Sys2Proof.Machine

/-- The mask 0x80 tests the sign bit. -/
theorem and_0x80_ne_zero_iff : ∀ x : Byte, x &&& 0x80 ≠ 0 ↔ x.msb = true := by decide

/-- 43_arith.md R212: the operands have the sign the sum has not. -/
theorem addV_iff_saddOverflow (a v : Byte) :
    (a ^^^ (a + v)) &&& (v ^^^ (a + v)) &&& 0x80 ≠ 0 ↔ BitVec.saddOverflow a v = true := by
  rw [and_0x80_ne_zero_iff, BitVec.saddOverflow_eq, BitVec.msb_and, BitVec.msb_xor, BitVec.msb_xor]
  generalize (a + v).msb = r
  cases a.msb <;> cases v.msb <;> cases r <;> decide

/-- 43_arith.md R213: the operands have different signs, and the difference has that of v. -/
theorem subV_iff_ssubOverflow (a v : Byte) :
    (a ^^^ v) &&& (a ^^^ (a - v)) &&& 0x80 ≠ 0 ↔ BitVec.ssubOverflow a v = true := by
  rw [and_0x80_ne_zero_iff, BitVec.ssubOverflow_eq, BitVec.msb_and, BitVec.msb_xor, BitVec.msb_xor]
  generalize (a - v).msb = r
  cases a.msb <;> cases v.msb <;> cases r <;> decide

/-- A sum overflows iff it is not the exact signed sum, which then lies outside the signed range. -/
theorem saddOverflow_iff_toInt_ne (a v : Byte) : BitVec.saddOverflow a v = true ↔ (a + v).toInt ≠ a.toInt + v.toInt := by
  refine ⟨fun h he => ?_, fun hne => not_not.1 fun h => hne (BitVec.toInt_add_of_not_saddOverflow h)⟩
  have hlt := (a + v).toInt_lt
  have hle := (a + v).le_toInt
  rw [BitVec.saddOverflow, ← he, Bool.or_eq_true, decide_eq_true_iff, decide_eq_true_iff] at h
  omega

theorem ssubOverflow_iff_toInt_ne (a v : Byte) : BitVec.ssubOverflow a v = true ↔ (a - v).toInt ≠ a.toInt - v.toInt := by
  refine ⟨fun h he => ?_, fun hne => not_not.1 fun h => hne (BitVec.toInt_sub_of_not_ssubOverflow h)⟩
  have hlt := (a - v).toInt_lt
  have hle := (a - v).le_toInt
  rw [BitVec.ssubOverflow, ← he, Bool.or_eq_true, decide_eq_true_iff, decide_eq_true_iff] at h
  omega

theorem add_carry_iff (a v : Byte) : a.toNat + v.toNat > 0xFF ↔ ((a + v).toNat : Int) ≠ (a.toNat : Int) + v.toNat := by
  rw [BitVec.toNat_add]
  omega

theorem sub_borrow_iff (a v : Byte) : a.toNat < v.toNat ↔ ((a - v).toNat : Int) ≠ (a.toNat : Int) - v.toNat := by
  rw [BitVec.toNat_sub]
  omega

end Sys2Proof.Machine

namespace Sys2Proof

open Sys2Proof.Machine

/-- Settles O47: by R212 and R213 the flags are the carry and overflow conditions, each of which holds iff the result is not
exact. -/
theorem carryAndOverflowReportTheExactResult : Obligations.CarryAndOverflowReportTheExactResult := by
  intro p iff2 a v hp hz
  obtain ⟨-, -, -, -, -, -, hAddV, -, hAddC⟩ := zilogAddResultAndFlags p iff2 a v hp hz
  obtain ⟨-, -, -, -, -, -, hSubV, -, hSubC⟩ := zilogSubResultAndFlags p iff2 a v hp hz
  rw [hAddC, hAddV, hSubC, hSubV, alu_add_zilog hz, alu_sub_zilog hz]
  simp only [decide_eq_true_iff]
  exact ⟨add_carry_iff a v, (addV_iff_saddOverflow a v).trans (saddOverflow_iff_toInt_ne a v), sub_borrow_iff a v,
    (subV_iff_ssubOverflow a v).trans (ssubOverflow_iff_toInt_ne a v)⟩

end Sys2Proof
end
